-- ==== Sys2Proof/Word.lean ====
section
/-! DEFINITION. The word types of the QEDC: the widths that 10_state.md and 20_memory.md give its
registers, under short names. -/

namespace Sys2Proof

/-- One byte of the host window on a byte-addressed bus (R84). -/
abbrev Byte := BitVec 8

/-- A 32-bit word: a command or event word (R101, R102), a u32 or an s32 register. -/
abbrev U32 := BitVec 32

/-- A 64-bit register or window slot (R81); a Q32.32 quantity is held as its 64-bit pattern (R12). -/
abbrev U64 := BitVec 64

/-- A two-bit QuadState code `(A<<1)|B` (R140). -/
abbrev Quad := BitVec 2

end Sys2Proof
end

