-- ==== Sys2Proof/Config.lean ====
section
/-! DEFINITION. What is fixed for the life of a run: the implementation parameters of R9, the constants
PI_RAW and TIME_MAX, and the one free value of the model. -/

namespace Sys2Proof

/-- The parameters R9 gives for one channel. They are natural numbers and may lie outside the legal range:
reset checks them (R372). -/
structure ChannelParams where
  /-- `V_PERIOD0_MS[c]`, the reset sampler period in ms -/
  vPeriod0Ms : Nat
  /-- `PID_T0_MS[c]`, the reset PID sample interval in ms -/
  pidT0Ms : Nat
  /-- `KP0[c]`, a Q32.32 pattern -/
  kp0 : U64
  /-- `KI0[c]`, a Q32.32 pattern -/
  ki0 : U64
  /-- `KD0[c]`, a Q32.32 pattern -/
  kd0 : U64
deriving DecidableEq, Repr

/-- The parameters R9 gives for the whole block. `N_MOTORS` is not among them: it is the number of channels
the state holds, each of which carries its own `ChannelParams`. -/
structure Params where
  /-- `QCAP`, the capacity of each ActionQueue -/
  qcap : Nat
  /-- `PINS_VALID` -/
  pinsValid : Bool
  /-- `WINDOW_BASE`, the bus address of the host register window (R80, R87) -/
  windowBase : Nat
deriving DecidableEq, Repr

namespace Config

/-- The defaults R9 states for a channel: 5000 ms, 100 ms and zero gains. -/
def defaultChannel : ChannelParams :=
  { vPeriod0Ms := 5000, pidT0Ms := 100, kp0 := 0, ki0 := 0, kd0 := 0 }

/-- The default number of channels, R9. -/
def defaultNMotors : Nat := 2

/-- `QCAP` at R9's default. DESIGN CHOICE (log entry 3; unsafe): the spec states no default for PINS_VALID and
WINDOW_BASE; the reset state takes a valid pin record and base 0. -/
def defaultParams : Params := { qcap := 8, pinsValid := true, windowBase := 0 }

/-- `PI_RAW`, the constant pi as Q32.32 (R9, R174). -/
def piRaw : Int := 13493037705

/-- `TIME_MAX`, the largest value of the time base (R9, R38). -/
def timeMax : Nat := 2 ^ 63 - 1

/-- The FREE VALUE of the model (log entry 2; safe): which of several enabled internal events runs when no move
of the host or the environment is waiting. R345 gives no order ("any one enabled transition of any agent, in any
order"), so nothing in Lean can say what this function is. -/
opaque freePick : Nat → Nat

end Config

end Sys2Proof
end

