-- ==== Sys2Proof/Syntax.lean ====
section
/-! DEFINITION. The instructions of the QEDC: the 31 host commands and the 7 events of the opcode table (R2, R106,
R110), one constructor per row. A channel row carries its MOTOR field; the operands of a command are not part of the
instruction, they stand in G.ARG0..2 (R100). -/

namespace Sys2Proof

/-- One command or event (R2). `m` is the MOTOR field, a channel number. -/
inductive Instr where
  /-- `NOP`, R312 -/
  | nop
  /-- `ED_RESET`, R148 -/
  | edReset (m : Nat)
  /-- `ED_GETCOUNT`, R149 -/
  | edGetcount (m : Nat)
  /-- `GET_POSITION`, R150 -/
  | getPosition (m : Nat)
  /-- `ED_GETDIAG`, R151 -/
  | edGetdiag (m : Nat)
  /-- `CALIBRATE`, R173 -/
  | calibrate (m : Nat)
  /-- `GET_CALIBRATION`, R176 -/
  | getCalibration (m : Nat)
  /-- `GET_VELOCITY`, R177 -/
  | getVelocity (m : Nat)
  /-- `SET_VEL_PERIOD`, R178 -/
  | setVelPeriod (m : Nat)
  /-- `GET_VEL_PERIOD`, R179 -/
  | getVelPeriod (m : Nat)
  /-- `SET_TARGET`, R201 -/
  | setTarget (m : Nat)
  /-- `SET_TUNINGS`, R202 -/
  | setTunings (m : Nat)
  /-- `SET_MODE`, R203 -/
  | setMode (m : Nat)
  /-- `SET_INTERVAL`, R204 -/
  | setInterval (m : Nat)
  /-- `SET_LIMITS`, R205 -/
  | setLimits (m : Nat)
  /-- `SET_OUTPUT`, R206 -/
  | setOutput (m : Nat)
  /-- `COMPUTE`, R207 -/
  | compute (m : Nat)
  /-- `GET_OUTPUT`, R208 -/
  | getOutput (m : Nat)
  /-- `SET_DUTY`, R243 -/
  | setDuty (m : Nat)
  /-- `ENABLE`, R245 -/
  | enable (m : Nat)
  /-- `DISABLE`, R246 -/
  | disable (m : Nat)
  /-- `DRIFT`, R247 -/
  | drift (m : Nat)
  /-- `GET_MOTOR`, R248 -/
  | getMotor (m : Nat)
  /-- `ENQUEUE`, R272 -/
  | enqueue (m : Nat)
  /-- `STOP`, R273 -/
  | stop (m : Nat)
  /-- `QUEUE_STATUS`, R274 -/
  | queueStatus (m : Nat)
  /-- `QUEUE_PEEK`, R275 -/
  | queuePeek (m : Nat)
  /-- `GET_ALARM`, R279 -/
  | getAlarm
  /-- `GET_TIME`, R311 -/
  | getTime
  /-- `GET_FLAGS`, R313 -/
  | getFlags (m : Nat)
  /-- `CLEAR_FLAGS`, R314 -/
  | clearFlags (m : Nat)
  /-- `EV_PHASE`, R142: the new levels of phase A and phase B -/
  | evPhase (m : Nat) (a b : Bool)
  /-- `EV_EDGE`, R144 -/
  | evEdge (m : Nat)
  /-- `EV_VTICK`, R171 -/
  | evVtick (m : Nat)
  /-- `EV_PTICK`, R209 -/
  | evPtick (m : Nat)
  /-- `EV_ALARM`, R278 -/
  | evAlarm
  /-- `EV_TIME`, R310: the advance in microseconds, ARG0 of the event record (R102) -/
  | evTime (d : Nat)
  /-- `EV_RESET`, R370 -/
  | evReset
deriving DecidableEq, Repr

/-- The events of R110; every other instruction is a host command of R106. -/
def Instr.isEvent : Instr → Bool
  | .nop => false
  | .edReset _ => false
  | .edGetcount _ => false
  | .getPosition _ => false
  | .edGetdiag _ => false
  | .calibrate _ => false
  | .getCalibration _ => false
  | .getVelocity _ => false
  | .setVelPeriod _ => false
  | .getVelPeriod _ => false
  | .setTarget _ => false
  | .setTunings _ => false
  | .setMode _ => false
  | .setInterval _ => false
  | .setLimits _ => false
  | .setOutput _ => false
  | .compute _ => false
  | .getOutput _ => false
  | .setDuty _ => false
  | .enable _ => false
  | .disable _ => false
  | .drift _ => false
  | .getMotor _ => false
  | .enqueue _ => false
  | .stop _ => false
  | .queueStatus _ => false
  | .queuePeek _ => false
  | .getAlarm => false
  | .getTime => false
  | .getFlags _ => false
  | .clearFlags _ => false
  | .evPhase _ _ _ => true
  | .evEdge _ => true
  | .evVtick _ => true
  | .evPtick _ => true
  | .evAlarm => true
  | .evTime _ => true
  | .evReset => true

/-- The channel a channel instruction addresses (R105, R110); a global one addresses none. -/
def Instr.channel : Instr → Option Nat
  | .nop => none
  | .edReset m => some m
  | .edGetcount m => some m
  | .getPosition m => some m
  | .edGetdiag m => some m
  | .calibrate m => some m
  | .getCalibration m => some m
  | .getVelocity m => some m
  | .setVelPeriod m => some m
  | .getVelPeriod m => some m
  | .setTarget m => some m
  | .setTunings m => some m
  | .setMode m => some m
  | .setInterval m => some m
  | .setLimits m => some m
  | .setOutput m => some m
  | .compute m => some m
  | .getOutput m => some m
  | .setDuty m => some m
  | .enable m => some m
  | .disable m => some m
  | .drift m => some m
  | .getMotor m => some m
  | .enqueue m => some m
  | .stop m => some m
  | .queueStatus m => some m
  | .queuePeek m => some m
  | .getAlarm => none
  | .getTime => none
  | .getFlags m => some m
  | .clearFlags m => some m
  | .evPhase m _ _ => some m
  | .evEdge m => some m
  | .evVtick m => some m
  | .evPtick m => some m
  | .evAlarm => none
  | .evTime _ => none
  | .evReset => none

end Sys2Proof
end

