-- ==== Sys2Proof/WellFormed.lean ====
section
/-! DEFINITION. Which terms of `Instr` an encoding exists for: the MOTOR field has four bits (R101, R102) and the
operand of EV_TIME is a u64 (R102). Whether the channel exists and whether an event is enabled is no matter of form:
the meanings check that (R103, R110). -/

namespace Sys2Proof

/-- The MOTOR field has four bits (R101, R102). -/
def motorFits (m : Nat) : Bool := decide (m < 16)

/-- The advance of EV_TIME is a u64 (R102). -/
def advanceFits (d : Nat) : Bool := decide (d < 2 ^ 64)

/-- An instruction that R101 or R102 has a word for. -/
def Instr.wellFormed : Instr → Bool
  | .evTime d => advanceFits d
  | i => match i.channel with
    | some m => motorFits m
    | none => true

end Sys2Proof
end

