-- ==== Sys2Proof/Decode.lean ====
section
/-! DEFINITION. The command and event words of 30_encoding.md: the decoder, total on any bytes and refusing by
name, and after it the encoder, written from the same formats. -/

namespace Sys2Proof

/-- Why a transaction record is no instruction (R103, R107, R108, R109). -/
inductive DecodeError where
  /-- fewer bytes than the record has -/
  | truncated
  /-- the opcode is in neither the opcode map of R106 nor the event list of R110 (R107, R108) -/
  | unassigned (op : BitVec 8)
  /-- a reserved bit is set (R101, R102, R109) -/
  | reservedBits
  /-- a global command or event with a nonzero MOTOR field (R101, R102, R109) -/
  | globalMotor
  /-- an event code where only a command can stand (R108) -/
  | eventCode
deriving DecidableEq, Repr

/-- Bits 31:24, `OPC` or `EVC` (R101, R102). -/
def opcodeField (w : U32) : BitVec 8 := w.extractLsb' 24 8

/-- Bits 23:20, `MOTOR` (R101, R102). -/
def motorField (w : U32) : BitVec 4 := w.extractLsb' 20 4

/-- Bits 19:0, `RSV` of a command word and of every event word but EV_PHASE (R101, R102). -/
def rsvField (w : U32) : BitVec 20 := w.extractLsb' 0 20

/-- Bits 19:2, `RSV` of an EV_PHASE word (R102). -/
def phaseRsvField (w : U32) : BitVec 18 := w.extractLsb' 2 18

/-- How the fields of a word are read, by row of the opcode map. -/
inductive Row where
  /-- a global command or event: MOTOR and RSV are 0 -/
  | whole (i : Instr)
  /-- a channel command or event: MOTOR names the channel, RSV is 0 -/
  | channel (mk : Nat → Instr)
  /-- EV_PHASE: MOTOR, and the levels A and B in bits 1 and 0 -/
  | phase
  /-- EV_TIME: as a global event, with the advance in ARG0 of the record -/
  | time

/-- Rows of the opcode map (R106): the EdgeDecoder commands and NOP. -/
def encoderRows : List (BitVec 8 × Row) :=
  [(0x00#8, Row.whole Instr.nop),
   (0x01#8, Row.channel Instr.edReset),
   (0x02#8, Row.channel Instr.edGetcount),
   (0x03#8, Row.channel Instr.getPosition),
   (0x04#8, Row.channel Instr.edGetdiag)]

/-- Rows of the opcode map (R106): the sampler and calibration commands. -/
def samplerRows : List (BitVec 8 × Row) :=
  [(0x10#8, Row.channel Instr.calibrate),
   (0x11#8, Row.channel Instr.getCalibration),
   (0x12#8, Row.channel Instr.getVelocity),
   (0x13#8, Row.channel Instr.setVelPeriod),
   (0x14#8, Row.channel Instr.getVelPeriod)]

/-- Rows of the opcode map (R106): the PID commands. -/
def pidRows : List (BitVec 8 × Row) :=
  [(0x20#8, Row.channel Instr.setTarget),
   (0x21#8, Row.channel Instr.setTunings),
   (0x22#8, Row.channel Instr.setMode),
   (0x23#8, Row.channel Instr.setInterval),
   (0x24#8, Row.channel Instr.setLimits),
   (0x25#8, Row.channel Instr.setOutput),
   (0x26#8, Row.channel Instr.compute),
   (0x27#8, Row.channel Instr.getOutput)]

/-- Rows of the opcode map (R106): the MotorOutput commands. -/
def motorRows : List (BitVec 8 × Row) :=
  [(0x30#8, Row.channel Instr.setDuty),
   (0x31#8, Row.channel Instr.enable),
   (0x32#8, Row.channel Instr.disable),
   (0x33#8, Row.channel Instr.drift),
   (0x34#8, Row.channel Instr.getMotor)]

/-- Rows of the opcode map (R106): the scheduler commands. -/
def schedulerRows : List (BitVec 8 × Row) :=
  [(0x40#8, Row.channel Instr.enqueue),
   (0x41#8, Row.channel Instr.stop),
   (0x42#8, Row.channel Instr.queueStatus),
   (0x43#8, Row.channel Instr.queuePeek),
   (0x44#8, Row.whole Instr.getAlarm)]

/-- Rows of the opcode map (R106): the system commands. -/
def systemRows : List (BitVec 8 × Row) :=
  [(0x50#8, Row.whole Instr.getTime),
   (0x51#8, Row.channel Instr.getFlags),
   (0x52#8, Row.channel Instr.clearFlags)]

/-- The event codes of R110. -/
def eventRows : List (BitVec 8 × Row) :=
  [(0xE0#8, Row.phase),
   (0xE1#8, Row.channel Instr.evEdge),
   (0xE2#8, Row.channel Instr.evVtick),
   (0xE3#8, Row.channel Instr.evPtick),
   (0xE4#8, Row.whole Instr.evAlarm),
   (0xE5#8, Row.time),
   (0xE6#8, Row.whole Instr.evReset)]

/-- The opcode map of R106 and the event codes of R110. -/
def opcodeMap : List (BitVec 8 × Row) :=
  encoderRows ++ samplerRows ++ pidRows ++ motorRows ++ schedulerRows ++ systemRows ++ eventRows

/-- The row of an opcode, if it is assigned. -/
def rowOf (op : BitVec 8) : Option Row := opcodeMap.lookup op

/-- The instruction of a word and, for EV_TIME alone, of the record's ARG0 (R101, R102). The checks stand in the order
of R103: opcode, RSV, MOTOR of a global word. Whether the channel exists is checked by the meaning. -/
def decodeWord (w : U32) (arg0 : U64) : Except DecodeError Instr :=
  match rowOf (opcodeField w) with
  | none => .error (.unassigned (opcodeField w))
  | some (.whole i) =>
    if rsvField w ≠ 0 then .error .reservedBits
    else if motorField w ≠ 0 then .error .globalMotor
    else .ok i
  | some (.channel mk) =>
    if rsvField w ≠ 0 then .error .reservedBits else .ok (mk (motorField w).toNat)
  | some .phase =>
    if phaseRsvField w ≠ 0 then .error .reservedBits
    else .ok (.evPhase (motorField w).toNat (w.getLsbD 1) (w.getLsbD 0))
  | some .time =>
    if rsvField w ≠ 0 then .error .reservedBits
    else if motorField w ≠ 0 then .error .globalMotor
    else .ok (.evTime arg0.toNat)

/-- The decoder of the host's command port: an event code is no command (R108). -/
def decodeCommand (w : U32) : Except DecodeError Instr :=
  match decodeWord w 0 with
  | .ok i => if i.isEvent then .error .eventCode else .ok i
  | .error e => .error e

/-- The number whose little-endian bytes these are (R84). -/
def leNat : List Byte → Nat
  | [] => 0
  | b :: bs => b.toNat + 256 * leNat bs

/-- The `k` little-endian bytes of a number (R84). -/
def leBytes : Nat → Nat → List Byte
  | 0, _ => []
  | k + 1, n => BitVec.ofNat 8 n :: leBytes k (n / 256)

/-- The instruction of a transaction record laid out as bytes: the word, little-endian (R84), and for EV_TIME the
record's ARG0 after it. PRESUMED to be little-endian too (log entry 7; safe): the record is a notation (R100), no byte
of it can be observed. -/
def decode (bs : List Byte) : Except DecodeError Instr :=
  if bs.length < 4 then .error .truncated
  else
    let w := BitVec.ofNat 32 (leNat (bs.take 4))
    if opcodeField w = 0xE5#8 ∧ bs.length < 12 then .error .truncated
    else decodeWord w (BitVec.ofNat 64 (leNat ((bs.drop 4).take 8)))

/-- The instruction the decoder reads from a transaction whose bits are `w`, bit 0 the least significant bit of the
word and ARG0 of the record counting on from bit 32; bits from `nbits` on are 0. -/
def decodeTableWord (nbits w : Nat) : Option Instr :=
  (decode (leBytes 12 (w % 2 ^ nbits))).toOption

/-! ## The encoder -/

/-- The opcode or event code of an instruction (R106, R110). -/
def Instr.opcode : Instr → BitVec 8
  | .nop => 0x00#8
  | .edReset _ => 0x01#8
  | .edGetcount _ => 0x02#8
  | .getPosition _ => 0x03#8
  | .edGetdiag _ => 0x04#8
  | .calibrate _ => 0x10#8
  | .getCalibration _ => 0x11#8
  | .getVelocity _ => 0x12#8
  | .setVelPeriod _ => 0x13#8
  | .getVelPeriod _ => 0x14#8
  | .setTarget _ => 0x20#8
  | .setTunings _ => 0x21#8
  | .setMode _ => 0x22#8
  | .setInterval _ => 0x23#8
  | .setLimits _ => 0x24#8
  | .setOutput _ => 0x25#8
  | .compute _ => 0x26#8
  | .getOutput _ => 0x27#8
  | .setDuty _ => 0x30#8
  | .enable _ => 0x31#8
  | .disable _ => 0x32#8
  | .drift _ => 0x33#8
  | .getMotor _ => 0x34#8
  | .enqueue _ => 0x40#8
  | .stop _ => 0x41#8
  | .queueStatus _ => 0x42#8
  | .queuePeek _ => 0x43#8
  | .getAlarm => 0x44#8
  | .getTime => 0x50#8
  | .getFlags _ => 0x51#8
  | .clearFlags _ => 0x52#8
  | .evPhase _ _ _ => 0xE0#8
  | .evEdge _ => 0xE1#8
  | .evVtick _ => 0xE2#8
  | .evPtick _ => 0xE3#8
  | .evAlarm => 0xE4#8
  | .evTime _ => 0xE5#8
  | .evReset => 0xE6#8

/-- The twenty bits below MOTOR: 0, but for the two levels of EV_PHASE (R101, R102). -/
def Instr.lowBits : Instr → BitVec 20
  | .evPhase _ a b => 0#18 ++ BitVec.ofBool a ++ BitVec.ofBool b
  | _ => 0

/-- The MOTOR field: the channel, 0 for a global instruction (R101, R102). A channel of 16 and more, which no well-formed
instruction has, is cut to the four bits (the model's choice, log entry 14). -/
def Instr.motorBits (i : Instr) : BitVec 4 := BitVec.ofNat 4 (i.channel.getD 0)

/-- The command or event word of an instruction: OPC, MOTOR and the low bits (R101, R102). -/
def encodeWord (i : Instr) : U32 := i.opcode ++ i.motorBits ++ i.lowBits

/-- ARG0 of the record: the advance of EV_TIME, nothing for any other instruction (R102). -/
def Instr.recordArg0 : Instr → U64
  | .evTime d => BitVec.ofNat 64 d
  | _ => 0

/-- The bytes of an instruction's record, as `decode` reads them. -/
def encode (i : Instr) : List Byte :=
  leBytes 4 (encodeWord i).toNat ++
    match i with
    | .evTime d => leBytes 8 d
    | _ => []

end Sys2Proof
end

