-- ==== Sys2Proof/Machine/State.lean ====
section
/-! DEFINITION. The state of the QEDC (10_state.md): every global register, every register of a channel, the output
log; beside it the parameters of the run and the model's own fields, marked as such. All of it is plain data. -/

namespace Sys2Proof.Machine

/-- The status codes of R330, as G.STATUS and the DUTY events hold them. Codes 6..255 are never written; DEDUCED (log
entry 11; safe): a type of the six values holds them all. -/
inductive Status where
  | ok
  | invalidArgument
  | resourceExhausted
  | disabled
  | configurationError
  | illegalCommand
deriving DecidableEq, Repr

/-- Who called setDutyCycle (R72). -/
inductive Source where
  | host
  | pid
  | sched
deriving DecidableEq, Repr

/-- The four outputs of a channel's MotorOutput (R72, R240). -/
inductive Pin where
  | en
  | dirA
  | dirB
  | pwm
deriving DecidableEq, Repr

/-- The events of the output log G.OUTLOG (R72). -/
inductive LogEvent where
  /-- `DUTY(c, s, src, st)`: one call of setDutyCycle with the signed percent `s`, and the status it returned -/
  | duty (c : Nat) (s : Int) (src : Source) (st : Status)
  /-- `PIN(c, P, v)`: output `P` changed its level to `v` -/
  | pin (c : Nat) (p : Pin) (v : Nat)
  /-- `RESET`: a reset took place -/
  | reset
deriving DecidableEq, Repr

/-- The ACT field of a queue entry (R69): 0 IDLE, 1 FORWARD, 2 REVERSE; 3 is never stored. -/
inductive Action where
  | idle
  | forward
  | reverse
deriving DecidableEq, Repr

/-- PID_MODE (R61): 0 MANUAL, 1 AUTOMATIC. -/
inductive PidMode where
  | manual
  | automatic
deriving DecidableEq, Repr

/-- One entry of an ActionQueue (R69). -/
structure Entry where
  act : Action
  pwr : BitVec 7
  dur : U32
  /-- the absolute deadline, meaningful only while `run` -/
  dl : U64
  /-- isRunning: false PENDING, true RUNNING -/
  run : Bool
deriving DecidableEq, Repr

/-- The registers of one channel (R41 to R71), in the order of 10_state.md, and the channel's parameters. -/
structure Channel where
  /-- the parameters of this channel, fixed for the run (R9); no rule writes them -/
  par : ChannelParams
  qa : Bool
  qb : Bool
  edLast : Quad
  edPos : U32
  edPend : Bool
  diagCnt : U32
  calPpr : U32
  calDiam : U64
  calDpp : U64
  vPeriodMs : U32
  vNext : U64
  vPrevPos : U32
  vPrevT : U64
  vel : U64
  pidSp : U64
  pidMeas : U64
  pidOut : U64
  pidKp : U64
  pidKi : U64
  pidKd : U64
  pidInt : U64
  pidPerr : U64
  pidTMs : U32
  pidMode : PidMode
  pidSeed : Bool
  pidLast : U64
  pidMin : U64
  pidMax : U64
  en : Bool
  dirA : Bool
  dirB : Bool
  pwm : BitVec 7
  /-- false forward, true reverse (R68) -/
  lastDir : Bool
  q : List Entry
  /-- bit 0 TANOM, bit 1 OUTREJ_PID, bit 2 OUTREJ_SCHED (R71) -/
  flags : BitVec 3
deriving DecidableEq, Repr

/-- A move an agent outside the block makes, or that is made for an internal agent (R8, R345, R395). An address is
an absolute bus address; the window begins at `WINDOW_BASE` (R80). -/
inductive Move where
  /-- the host writes `width` bytes of value `v` at `addr` (R82, R83) -/
  | hostWrite (addr width : Nat) (v : U64)
  /-- the host reads `width` bytes at `addr` (R83) -/
  | hostRead (addr width : Nat)
  /-- the event that the record of word `w` and ARG0 `arg0` names takes place (R100, R102) -/
  | event (w : U32) (arg0 : U64)
deriving DecidableEq, Repr

/-- The state of the QEDC. The last four fields are not the spec's registers: `params` is what R9 gives the whole
block, fixed for the run; `agenda`, `hostData` and `choices` are the model's own interface (log entries 1, 2, 8). -/
structure State where
  cmd : U32
  arg0 : U64
  arg1 : U64
  arg2 : U64
  status : Status
  result0 : U64
  result1 : U64
  cfgHalt : Bool
  now : U64
  alarmArm : Bool
  alarmAt : U64
  /-- the channels `0 .. N_MOTORS-1`; their number is `N_MOTORS` (R3, R9) -/
  chans : List Channel
  /-- G.OUTLOG, oldest event first (R72) -/
  outlog : List LogEvent
  params : Params
  /-- the moves that the agents outside have chosen and not yet made, the next one first -/
  agenda : List Move
  /-- what the last MemRead returned to the host; nothing before the first -/
  hostData : Option U64
  /-- how many free choices among enabled internal events have been made -/
  choices : Nat
deriving DecidableEq, Repr

/-- Why the machine has no next state. Each says that the spec gives NO transition there: the agent has no step
(R85, R110, R345). DESIGN CHOICE (log entries 5 and 6). All are safe: the model stops where the hardware makes no such
move. -/
inductive Fault where
  /-- Raised by the seven event meanings' enable conditions (R110): an event is never enabled when its condition is
  false. Safe. -/
  | eventNotEnabled
  /-- Raised by a channel event whose MOTOR is not in `0 .. N_MOTORS-1` (R102, R349): there is no such agent. Safe. -/
  | noSuchChannel
  /-- Raised by a window access that R85 does not admit: the host agent is stuck. Safe. -/
  | accessNotAdmitted
  /-- Raised by an event record whose word names no event of R110. Safe. -/
  | notAnEvent
  /-- Raised by step when no move is waiting and no internal event is enabled: a quiescent end (R396). Safe. -/
  | quiescent
deriving DecidableEq, Repr

/-- Why the model declines an instruction. -/
inductive Refusal where
  /-- Raised by exec for an instruction that has no meaning yet; no arm is left that does. Safe. -/
  | notModelled (mnemonic : String)
deriving DecidableEq, Repr

/-- What a meaning answers. -/
abbrev Result := Host.Outcome State Fault Refusal

/-- A channel right after power-on with phase levels `a` and `b` (R370, R371, R373). -/
def Channel.powerOn (p : ChannelParams) (a b : Bool) : Channel :=
  { par := p, qa := a, qb := b, edLast := BitVec.ofBool a ++ BitVec.ofBool b, edPos := 0, edPend := false, diagCnt := 0,
    calPpr := 0, calDiam := 0, calDpp := 0,
    vPeriodMs := BitVec.ofNat 32 p.vPeriod0Ms, vNext := BitVec.ofNat 64 (p.vPeriod0Ms * 1000),
    vPrevPos := 0, vPrevT := 0, vel := 0,
    pidSp := 0, pidMeas := 0, pidOut := 0, pidKp := p.kp0, pidKi := p.ki0, pidKd := p.kd0, pidInt := 0, pidPerr := 0,
    pidTMs := BitVec.ofNat 32 p.pidT0Ms, pidMode := .manual, pidSeed := false, pidLast := 0,
    pidMin := 0, pidMax := BitVec.ofInt 64 (100 * 2 ^ 32),
    en := false, dirA := false, dirB := false, pwm := 0, lastDir := false, q := [], flags := 0 }

/-- The machine right after reset with the default parameters (R370, R371, R373; the defaults of R9). The phase levels
at power-on are free inputs (R41, R371); here they are 0. DESIGN CHOICE (log entry 4; unsafe). -/
def State.reset : State :=
  { cmd := 0, arg0 := 0, arg1 := 0, arg2 := 0, status := .ok, result0 := 0, result1 := 0, cfgHalt := false,
    now := 0, alarmArm := false, alarmAt := 0,
    chans := List.replicate Config.defaultNMotors (Channel.powerOn Config.defaultChannel false false),
    outlog := [.reset], params := Config.defaultParams, agenda := [], hostData := none, choices := 0 }

end Sys2Proof.Machine
end

