-- ==== Sys2Proof/Machine/Arith.lean ====
section
/-! DEFINITION. The fixed-point arithmetic of R12: exact integers in the middle, one saturation at the end. -/

namespace Sys2Proof.Machine

/-- `fx(n)`, the integer `n` as Q32.32 (R12). -/
def fx (n : Int) : Int := n * 2 ^ 32

/-- `tdiv(a, b)`, the quotient rounded toward zero (R12). The rules divide by positive numbers only (R332); what a
division by 0 gives here is a DESIGN CHOICE no run reaches (log entry 10). -/
def tdiv (a b : Int) : Int := Int.tdiv a b

/-- `sat64(x)` (R12). -/
def sat64 (x : Int) : Int := max (-2 ^ 63) (min (2 ^ 63 - 1) x)

/-- `clamp(x, lo, hi)` (R12). -/
def clamp (x lo hi : Int) : Int := max lo (min hi x)

/-- `fxmul(a, b)` (R12). -/
def fxmul (a b : Int) : Int := sat64 (tdiv (a * b) (2 ^ 32))

/-- The two's-complement pattern of an integer in the range of an s64. -/
def q64 (x : Int) : U64 := BitVec.ofInt 64 x

/-- A bit as a 64-bit number. -/
def bit64 (b : Bool) : U64 := BitVec.setWidth 64 (BitVec.ofBool b)

end Sys2Proof.Machine
end

