-- ==== Sys2Proof/Machine/Flags.lean ====
section
/-! DEFINITION. The sticky flags c.FLAGS (R71, R335): what sets a bit and what clears it. They are the only status flags
of the QEDC. -/

namespace Sys2Proof.Machine

/-- Bit 0: a sampler tick saw elapsed time <= 0 (R71, R171). -/
def flagTanom : BitVec 3 := 1

/-- Bit 1: a PID step's duty delivery was rejected (R71, R210). -/
def flagOutrejPid : BitVec 3 := 2

/-- Bit 2: a scheduler dispatch's duty delivery was rejected (R71, R276). -/
def flagOutrejSched : BitVec 3 := 4

/-- An event sets a flag; the other bits keep their value (R71, R335). -/
def Channel.setFlag (f : BitVec 3) (c : Channel) : Channel := { c with flags := c.flags ||| f }

/-- `c.FLAGS <- c.FLAGS & ~mask` (R314). -/
def Channel.clearFlags (mask : BitVec 3) (c : Channel) : Channel := { c with flags := c.flags &&& ~~~mask }

end Sys2Proof.Machine
end

