-- ==== Sys2Proof/Machine/Operands.lean ====
section
/-! DEFINITION. The argument types of R104: the value each type reads from a 64-bit ARG pattern, and nothing where the
pattern is not valid for the type. -/

namespace Sys2Proof.Machine

/-- `U32`: `a < 2^32` (R104). -/
def readU32 (a : U64) : Option U32 := if a.toNat < 2 ^ 32 then some (a.setWidth 32) else none

/-- `POS32`: `1 <= a < 2^32` (R104). -/
def readPos32 (a : U64) : Option U32 :=
  if 1 ≤ a.toNat ∧ a.toNat < 2 ^ 32 then some (a.setWidth 32) else none

/-- `PCT_S`: the signed integer percent, `-100 <= sext_64(a) <= 100` (R104). -/
def readPctS (a : U64) : Option Int := if -100 ≤ a.toInt ∧ a.toInt ≤ 100 then some a.toInt else none

/-- `PCT_U`: `a <= 100` (R104). -/
def readPctU (a : U64) : Option (BitVec 7) := if a.toNat ≤ 100 then some (a.setWidth 7) else none

/-- `ENUM2` as the mode of SET_MODE: 0 MANUAL, 1 AUTOMATIC (R104, R203). -/
def readMode (a : U64) : Option PidMode :=
  if a = 0 then some .manual else if a = 1 then some .automatic else none

/-- `ENUM3` as the action of ENQUEUE: 0 IDLE, 1 FORWARD, 2 REVERSE (R69, R104, R272). -/
def readAction (a : U64) : Option Action :=
  if a = 0 then some .idle else if a = 1 then some .forward else if a = 2 then some .reverse else none

/-- `IDX`: the entry of the queue at index `a`, `a < len(c.Q)` (R104, R275). -/
def readEntry (qs : List Entry) (a : U64) : Option Entry := qs[a.toNat]?

/-- `MASK3`: `a < 8` (R104). -/
def readMask3 (a : U64) : Option (BitVec 3) := if a.toNat < 8 then some (a.setWidth 3) else none

end Sys2Proof.Machine
end

