-- ==== Sys2Proof/Machine/Ops.lean ====
section
/-! DEFINITION. The operations the meanings share: how a command ends, the checks before it, when an event is enabled,
the pin writes and SET_DUTY_CORE, the queue primitives and DISPATCH, and the reset of the block. The QEDC has no traps
(R337): `raise` is the one way in which a command is turned away. -/

namespace Sys2Proof.Machine

/-! ## Registers -/

/-- `STATUS <- st` (R13, R35). -/
def State.setStatus (st : Status) (s : State) : State := { s with status := st }

/-- `RESULT0 <- v` (R13, R36). -/
def State.setResult0 (v : U64) (s : State) : State := { s with result0 := v }

/-- `RESULT1 <- v` (R13, R36). -/
def State.setResult1 (v : U64) (s : State) : State := { s with result1 := v }

/-- Writes back the registers of channel `m` (R13). -/
def State.setChan (m : Nat) (c : Channel) (s : State) : State := { s with chans := s.chans.set m c }

/-- `emit` of the events `es`, in order (R15, R72). -/
def State.emit (es : List LogEvent) (s : State) : State := { s with outlog := s.outlog ++ es }

/-- The window value of G.STATUS: the codes of R330. -/
def Status.code : Status → BitVec 8
  | .ok => 0
  | .invalidArgument => 1
  | .resourceExhausted => 2
  | .disabled => 3
  | .configurationError => 4
  | .illegalCommand => 5

/-! ## How a command begins and ends -/

/-- `raise Status(st)`: STATUS, and no further write (R13, R331). -/
def raise (st : Status) (s : State) : Result := .next (s.setStatus st)

/-- `finish OK` (R13). -/
def finish (s : State) : Result := .next (s.setStatus .ok)

/-- `RESULT0 <- v ; finish OK`; RESULT1 is not written. -/
def finish1 (v : U64) (s : State) : Result := finish (s.setResult0 v)

/-- `RESULT0 <- v ; RESULT1 <- w ; finish OK`. -/
def finish2 (v w : U64) (s : State) : Result := finish ((s.setResult0 v).setResult1 w)

/-- A global command: the halt is checked first (R103, R336). -/
def onGlobal (s : State) (body : Result) : Result :=
  if s.cfgHalt then raise .configurationError s else body

/-- A channel command: the halt, then the channel number (R103); `body` gets the channel's registers. -/
def onChannel (m : Nat) (s : State) (body : Channel → Result) : Result :=
  onGlobal s
    (match s.chans[m]? with
    | none => raise .invalidArgument s
    | some c => body c)

/-- One argument check of R103: the value read from the argument, or INVALID_ARGUMENT. -/
def withArg {α : Type} (a : Option α) (s : State) (body : α → Result) : Result :=
  match a with
  | none => raise .invalidArgument s
  | some v => body v

/-- A channel event: its channel exists and it is enabled, or the agent has no step (R102, R110). -/
def onEvent (m : Nat) (s : State) (enabled : Channel → Bool) (body : Channel → Result) : Result :=
  match s.chans[m]? with
  | none => .fault .noSuchChannel
  | some c => if enabled c then body c else .fault .eventNotEnabled

/-! ## When an event is enabled (R110) -/

/-- EV_EDGE (R144). -/
def edgeEnabled (s : State) (c : Channel) : Bool := c.edPend && !s.cfgHalt

/-- EV_VTICK (R170). -/
def vtickEnabled (s : State) (c : Channel) : Bool := decide (c.vNext.toNat ≤ s.now.toNat) && !s.cfgHalt

/-- An interval has passed since the last PID step: `G.NOW - c.PID_LAST >= c.PID_T_MS * 1000`, on integers (R207,
R209). -/
def pidDue (now : U64) (c : Channel) : Bool :=
  decide ((now.toNat : Int) - c.pidLast.toNat ≥ (c.pidTMs.toNat : Int) * 1000)

/-- EV_PTICK (R209). -/
def ptickEnabled (s : State) (c : Channel) : Bool :=
  decide (c.pidMode = .automatic) && pidDue s.now c && !s.cfgHalt

/-- EV_ALARM (R278). -/
def alarmEnabled (s : State) : Bool := s.alarmArm && decide (s.alarmAt.toNat ≤ s.now.toNat) && !s.cfgHalt

/-- EV_TIME with advance `d` (R310). -/
def timeEnabled (d : Nat) (s : State) : Bool := decide (1 ≤ d ∧ s.now.toNat + d ≤ Config.timeMax)

/-! ## Outputs -/

/-- The level of an output: 0 or 1, or the percent of PWM (R65 to R67). -/
def Channel.level (c : Channel) : Pin → Nat
  | .en => c.en.toNat
  | .dirA => c.dirA.toNat
  | .dirB => c.dirB.toNat
  | .pwm => c.pwm.toNat

/-- The channel with the level of one output set. -/
def Channel.setLevel (c : Channel) (p : Pin) (v : Nat) : Channel :=
  match p with
  | .en => { c with en := v != 0 }
  | .dirA => { c with dirA := v != 0 }
  | .dirB => { c with dirB := v != 0 }
  | .pwm => { c with pwm := BitVec.ofNat 7 v }

/-- A channel together with the events its transition has emitted so far, oldest first. -/
structure Drive where
  chan : Channel
  log : List LogEvent
deriving DecidableEq, Repr

/-- `pin(c, P) <- v` on channel `m`: it emits and sets only a level that differs (R15). -/
def Drive.pin (m : Nat) (p : Pin) (v : Nat) (d : Drive) : Drive :=
  if d.chan.level p = v then d
  else { chan := d.chan.setLevel p v, log := d.log ++ [.pin m p v] }

/-- The conditional direction writes of R244: `if level = from then pin(c, P) <- to`, with `go` the condition on the
target pattern. -/
def Drive.pinIf (go : Bool) (m : Nat) (p : Pin) (v : Nat) (d : Drive) : Drive :=
  if go then d.pin m p v else d

/-- The status setDutyCycle returns (R244): range before enable. -/
def dutyStatus (v : Int) (c : Channel) : Status :=
  if v < -100 ∨ v > 100 then .invalidArgument else if c.en then .ok else .disabled

/-- The direction change of R244: magnitude to 0, release the old direction, assert the new one. -/
def Drive.turn (m : Nat) (a b : Bool) (d : Drive) : Drive :=
  if d.chan.dirA = a ∧ d.chan.dirB = b then d
  else
    let d0 := d.pin m .pwm 0
    let d1 := d0.pinIf (d0.chan.dirA && !a) m .dirA 0
    let d2 := d1.pinIf (d1.chan.dirB && !b) m .dirB 0
    let d3 := d2.pinIf (!d2.chan.dirA && a) m .dirA 1
    d3.pinIf (!d3.chan.dirB && b) m .dirB 1

/-- SET_DUTY_CORE(c, s, src) on channel `m` (R244). The status it returns is `dutyStatus v c`. -/
def setDutyCore (m : Nat) (v : Int) (src : Source) (c : Channel) : Drive :=
  let st := dutyStatus v c
  let d : Drive := { chan := c, log := [.duty m v src st] }
  if st ≠ .ok then d
  else
    let fwd := decide (0 ≤ v)
    let d1 := (d.turn m fwd (!fwd)).pin m .pwm v.natAbs
    { d1 with chan := { d1.chan with lastDir := !fwd } }

/-- Writes back what a transition did to channel `m`, and appends its events to G.OUTLOG. -/
def State.commit (m : Nat) (d : Drive) (s : State) : State := (s.setChan m d.chan).emit d.log

/-! ## The ActionQueue and the dispatcher -/

/-- `push(c, e)` (R14). -/
def Channel.push (e : Entry) (c : Channel) : Channel := { c with q := c.q ++ [e] }

/-- `pop(c)` (R14). -/
def Channel.pop (c : Channel) : Channel := { c with q := c.q.tail }

/-- The head entry, when there is one and it is RUNNING. -/
def Channel.running (c : Channel) : Option Entry :=
  match c.q with
  | [] => none
  | e :: _ => if e.run then some e else none

/-- A PENDING entry: `DL = 0`, `RUN = 0` (R272, R273). -/
def pendingEntry (act : Action) (pwr : BitVec 7) (dur : U32) : Entry :=
  { act := act, pwr := pwr, dur := dur, dl := 0, run := false }

/-- The signed power of an entry (R271). -/
def spow (e : Entry) : Int :=
  match e.act with
  | .idle => 0
  | .forward => e.pwr.toNat
  | .reverse => -(e.pwr.toNat : Int)

/-- Step 1 of DISPATCH on one channel: the running head is popped when it is due (R276). -/
def completeHead (now : U64) (c : Channel) : Channel :=
  match c.running with
  | none => c
  | some e => if e.dl.toNat ≤ now.toNat then c.pop else c

/-- Step 2 of DISPATCH on channel `m`: a PENDING head is dispatched and runs, even when its duty is rejected (R276). -/
def startHead (now : U64) (m : Nat) (c : Channel) : Drive :=
  match c.q with
  | [] => { chan := c, log := [] }
  | e :: es =>
    if e.run then { chan := c, log := [] }
    else
      let d := setDutyCore m (spow e) .sched c
      let c1 := if dutyStatus (spow e) c ≠ .ok then d.chan.setFlag flagOutrejSched else d.chan
      let e1 := { e with dl := BitVec.ofNat 64 (now.toNat + e.dur.toNat), run := true }
      { chan := { c1 with q := e1 :: es }, log := d.log }

/-- Step 2 over the channels from number `m` on, in ascending order (R276, R346). -/
def startFrom (now : U64) : Nat → List Channel → List Channel × List LogEvent
  | _, [] => ([], [])
  | m, c :: cs =>
    let d := startHead now m c
    let r := startFrom now (m + 1) cs
    (d.chan :: r.1, d.log ++ r.2)

/-- The deadlines of the running heads, `R` of R276. -/
def runningDeadlines (cs : List Channel) : List Nat :=
  cs.filterMap fun c => c.running.map fun e => e.dl.toNat

/-- Step 3 of DISPATCH: the alarm is armed for the earliest running deadline, or left disarmed at 0 (R276). -/
def State.armAlarm (s : State) : State :=
  match (runningDeadlines s.chans).min? with
  | none => { s with alarmArm := false, alarmAt := 0 }
  | some t => { s with alarmArm := true, alarmAt := BitVec.ofNat 64 t }

/-- DISPATCH(now) with `now = G.NOW` (R276). It runs inside one transition, so its disarming of the alarm on entry is
never seen (R277). -/
def dispatch (s : State) : State :=
  let r := startFrom s.now 0 (s.chans.map (completeHead s.now))
  State.armAlarm { s with chans := r.1, outlog := s.outlog ++ r.2 }

/-! ## Reset -/

/-- One period parameter is legal (R372). -/
def periodValid (ms : Nat) : Bool := decide (1 ≤ ms ∧ ms < 2 ^ 32)

/-- The configuration check of R372. -/
def State.configValid (s : State) : Bool :=
  decide (1 ≤ s.chans.length ∧ s.chans.length ≤ 16) && decide (1 ≤ s.params.qcap ∧ s.params.qcap ≤ 255) &&
    s.chans.all (fun c => periodValid c.par.vPeriod0Ms && periodValid c.par.pidT0Ms) && s.params.pinsValid

/-- The QuadState of two levels, `{A, B}` (R140). -/
def quad (a b : Bool) : Quad := BitVec.ofBool a ++ BitVec.ofBool b

/-- The reset of one channel (R370): every register but the phase levels. The levels of the outputs are set without
events. A period parameter of 2^32 or more is cut to its register (log entry 9; safe: the block is then halted). -/
def Channel.resetRegs (c : Channel) : Channel :=
  { c with
    edLast := quad c.qa c.qb, edPos := 0, edPend := false, diagCnt := 0,
    calPpr := 0, calDiam := 0, calDpp := 0,
    vPeriodMs := BitVec.ofNat 32 c.par.vPeriod0Ms, vNext := BitVec.ofNat 64 (c.par.vPeriod0Ms * 1000),
    vPrevPos := 0, vPrevT := 0, vel := 0,
    pidSp := 0, pidMeas := 0, pidOut := 0, pidInt := 0, pidPerr := 0,
    pidKp := c.par.kp0, pidKi := c.par.ki0, pidKd := c.par.kd0,
    pidTMs := BitVec.ofNat 32 c.par.pidT0Ms, pidMode := .manual, pidSeed := false, pidLast := 0,
    pidMin := q64 (fx 0), pidMax := q64 (fx 100),
    en := false, dirA := false, dirB := false, pwm := 0, lastDir := false,
    q := [], flags := 0 }

/-- EV_RESET on the whole block (R370). The log is kept, `RESET` appended to it. -/
def resetBlock (s : State) : State :=
  { s with
    cmd := 0, arg0 := 0, arg1 := 0, arg2 := 0, status := .ok, result0 := 0, result1 := 0,
    now := 0, alarmArm := false, alarmAt := 0,
    chans := s.chans.map Channel.resetRegs,
    outlog := s.outlog ++ [.reset],
    cfgHalt := !s.configValid }

/-- The state at power-on (R371): what EV_RESET leaves, with `G.OUTLOG = [RESET]`, for any parameters and any phase
levels, given channel by channel. -/
def State.powerOn (p : Params) (cs : List (ChannelParams × Bool × Bool)) : State :=
  resetBlock
    { State.reset with
      params := p, outlog := [], chans := cs.map fun x => Channel.powerOn x.1 x.2.1 x.2.2 }

end Sys2Proof.Machine
end

