-- ==== Sys2Proof/Machine/Encoder.lean ====
section
/-! DEFINITION. EdgeDecoder: the quadrature transitions, the phase and edge events and the decoder's commands
(41_encoder.md). -/

namespace Sys2Proof.Machine

/-- `cw(s)`, the clockwise successor on the ring 0 → 2 → 3 → 1 → 0 (R141). -/
def cwNext (s : Quad) : Quad := if s = 0 then 2 else if s = 2 then 3 else if s = 3 then 1 else 0

/-- `ccw(s)`, the counter-clockwise successor (R141). -/
def ccwNext (s : Quad) : Quad := if s = 0 then 1 else if s = 1 then 3 else if s = 3 then 2 else 0

/-- The transition class of a last and a new QuadState (R141). -/
inductive Turn where
  /-- +1 -/
  | clockwise
  /-- -1 -/
  | counterClockwise
  /-- 0 -/
  | same
  /-- D -/
  | diagonal
deriving DecidableEq, Repr

/-- `delta(l, n)` (R141). -/
def delta (l n : Quad) : Turn :=
  if n = l then .same
  else if n = cwNext l then .clockwise
  else if n = ccwNext l then .counterClockwise
  else .diagonal

/-- `min(DIAG_CNT + 1, 2^32 - 1)` (R45, R144). -/
def bumpDiag (n : U32) : U32 := BitVec.ofNat 32 (min (n.toNat + 1) (2 ^ 32 - 1))

/-- What the edge handler does to its channel (R144, R145, R146). -/
def edgeStep (c : Channel) : Channel :=
  let n := quad c.qa c.qb
  match delta c.edLast n with
  | .clockwise => { c with edPend := false, edPos := c.edPos + 1, edLast := n }
  | .counterClockwise => { c with edPend := false, edPos := c.edPos - 1, edLast := n }
  | .same => { c with edPend := false }
  | .diagonal => { c with edPend := false, diagCnt := bumpDiag c.diagCnt, edLast := n }

/-- The new phase levels, and the pending edge when they differ from the old ones (R142). -/
def setPhase (a b : Bool) (c : Channel) : Channel :=
  { c with qa := a, qb := b, edPend := c.edPend || decide (quad a b ≠ quad c.qa c.qb) }

/-- EV_PHASE (R142). -/
def execEvPhase (m : Nat) (a b : Bool) (s : State) : Result :=
  onEvent m s (fun _ => true) fun c => .next (s.setChan m (setPhase a b c))

/-- EV_EDGE (R144). -/
def execEvEdge (m : Nat) (s : State) : Result :=
  onEvent m s (edgeEnabled s) fun c => .next (s.setChan m (edgeStep c))

/-- ED_RESET (R148). The sampler is re-based with the count; ED_PEND stays. -/
def execEdReset (m : Nat) (s : State) : Result :=
  onChannel m s fun c =>
    finish (s.setChan m { c with edPos := 0, edLast := quad c.qa c.qb, diagCnt := 0, vPrevPos := 0 })

/-- ED_GETCOUNT (R149). -/
def execEdGetcount (m : Nat) (s : State) : Result :=
  onChannel m s fun c => finish1 (c.edPos.signExtend 64) s

/-- GET_POSITION (R150): the exact product saturates, and the count is of the same snapshot. -/
def execGetPosition (m : Nat) (s : State) : Result :=
  onChannel m s fun c =>
    finish2 (q64 (sat64 (c.edPos.toInt * c.calDpp.toInt))) (c.edPos.signExtend 64) s

/-- `{QA, QB, ED_PEND, ED_LAST}` (R151). -/
def decoderBits (c : Channel) : BitVec 5 := quad c.qa c.qb ++ BitVec.ofBool c.edPend ++ c.edLast

/-- ED_GETDIAG (R151). -/
def execEdGetdiag (m : Nat) (s : State) : Result :=
  onChannel m s fun c => finish2 (c.diagCnt.setWidth 64) ((decoderBits c).setWidth 64) s

end Sys2Proof.Machine
end

