-- ==== Sys2Proof/Machine/Motor.lean ====
section
/-! DEFINITION. MotorOutput's commands (44_motor.md). -/

namespace Sys2Proof.Machine

/-- SET_DUTY (R243). The argument check comes first and logs nothing; a disabled motor is logged, then raised. -/
def execSetDuty (m : Nat) (s : State) : Result :=
  onChannel m s fun c =>
    withArg (readPctS s.arg0) s fun v =>
      let s1 := s.commit m (setDutyCore m v .host c)
      if dutyStatus v c ≠ .ok then raise (dutyStatus v c) s1 else finish s1

/-- ENABLE (R245). -/
def execEnable (m : Nat) (s : State) : Result :=
  onChannel m s fun c => finish (s.commit m (Drive.pin m .en 1 { chan := c, log := [] }))

/-- The pin writes of DISABLE, in their order (R246, R346). -/
def disablePins (m : Nat) (c : Channel) : Drive :=
  ((((Drive.mk c []).pin m .pwm 0).pin m .dirA 0).pin m .dirB 0).pin m .en 0

/-- DISABLE (R246). -/
def execDisable (m : Nat) (s : State) : Result :=
  onChannel m s fun c => finish (s.commit m (disablePins m c))

/-- The pin writes of DRIFT (R247). -/
def driftPins (m : Nat) (c : Channel) : Drive := ((Drive.mk c []).pin m .dirA 0).pin m .dirB 0

/-- DRIFT (R247). -/
def execDrift (m : Nat) (s : State) : Result :=
  onChannel m s fun c => finish (s.commit m (driftPins m c))

/-- The packed output state of GET_MOTOR (R248). -/
def packMotor (c : Channel) : U64 :=
  bit64 c.en ||| (bit64 c.dirA <<< 1) ||| (bit64 c.dirB <<< 2) ||| (bit64 c.lastDir <<< 3) |||
    (c.pwm.setWidth 64 <<< 8)

/-- GET_MOTOR (R248). -/
def execGetMotor (m : Nat) (s : State) : Result :=
  onChannel m s fun c => finish1 (packMotor c) s

end Sys2Proof.Machine
end

