-- ==== Sys2Proof/Machine/Pid.lean ====
section
/-! DEFINITION. PIDController (43_pid.md): the step PID_STEP, the tick and the commands. -/

namespace Sys2Proof.Machine

/-- The error of a step, `e` of R210. -/
def pidError (c : Channel) : Int := sat64 (c.pidSp.toInt - c.vel.toInt)

/-- The proportional term, `P` of R210. -/
def pidP (c : Channel) : Int := fxmul c.pidKp.toInt (pidError c)

/-- The integral of a step, `I` of R210: seeded after a switch to AUTOMATIC (R211), else integrated and clamped. -/
def pidI (c : Channel) : Int :=
  if c.pidSeed then sat64 (c.pidOut.toInt - pidP c)
  else
    clamp
      (sat64 (c.pidInt.toInt +
        sat64 (tdiv (c.pidKi.toInt * pidError c * c.pidTMs.toNat) (2 ^ 32 * 1000))))
      c.pidMin.toInt c.pidMax.toInt

/-- The derivative term, `D` of R210: 0 in the seed step (R211). -/
def pidD (c : Channel) : Int :=
  if c.pidSeed then 0
  else
    sat64 (tdiv (c.pidKd.toInt * sat64 (pidError c - c.pidPerr.toInt) * 1000) (2 ^ 32 * c.pidTMs.toNat))

/-- The output of a step, `out` of R210. -/
def pidOutput (c : Channel) : Int :=
  clamp (sat64 (sat64 (pidP c + pidI c) + pidD c)) c.pidMin.toInt c.pidMax.toInt

/-- The registers a step leaves at time `now`, before its delivery (R210). -/
def pidUpdate (now : U64) (c : Channel) : Channel :=
  { c with
    pidInt := q64 (pidI c), pidOut := q64 (pidOutput c), pidPerr := q64 (pidError c), pidMeas := c.vel,
    pidLast := now, pidSeed := false }

/-- PID_STEP on channel `m` at time `now` (R210): the update, then the delivery of the truncated output (R212). A
rejected delivery sets OUTREJ_PID. -/
def pidStep (now : U64) (m : Nat) (c : Channel) : Drive :=
  let c1 := pidUpdate now c
  let duty := tdiv (pidOutput c) (2 ^ 32)
  let d := setDutyCore m duty .pid c1
  if dutyStatus duty c1 ≠ .ok then { d with chan := d.chan.setFlag flagOutrejPid } else d

/-- EV_PTICK (R209). -/
def execEvPtick (m : Nat) (s : State) : Result :=
  onEvent m s (ptickEnabled s) fun c => .next (s.commit m (pidStep s.now m c))

/-- SET_TARGET (R201). -/
def execSetTarget (m : Nat) (s : State) : Result :=
  onChannel m s fun c => finish (s.setChan m { c with pidSp := s.arg0 })

/-- SET_TUNINGS (R202). -/
def execSetTunings (m : Nat) (s : State) : Result :=
  onChannel m s fun c =>
    finish (s.setChan m { c with pidKp := s.arg0, pidKi := s.arg1, pidKd := s.arg2 })

/-- What SET_MODE does (R203): the switch to AUTOMATIC asks for a seed, a second one does not. -/
def switchMode (mode : PidMode) (c : Channel) : Channel :=
  match mode with
  | .manual => { c with pidMode := .manual, pidSeed := false }
  | .automatic => if c.pidMode = .manual then { c with pidMode := .automatic, pidSeed := true } else c

/-- SET_MODE (R203). -/
def execSetMode (m : Nat) (s : State) : Result :=
  onChannel m s fun c =>
    withArg (readMode s.arg0) s fun mode => finish (s.setChan m (switchMode mode c))

/-- SET_INTERVAL (R204). -/
def execSetInterval (m : Nat) (s : State) : Result :=
  onChannel m s fun c =>
    withArg (readPos32 s.arg0) s fun ms => finish (s.setChan m { c with pidTMs := ms })

/-- The bounds SET_LIMITS accepts (R205). -/
def limitsValid (lo hi : Int) : Bool := decide (fx (-100) ≤ lo ∧ lo < hi ∧ hi ≤ fx 100)

/-- SET_LIMITS (R205): the output and the integral are clamped at once. -/
def execSetLimits (m : Nat) (s : State) : Result :=
  onChannel m s fun c =>
    let lo := s.arg0.toInt
    let hi := s.arg1.toInt
    if limitsValid lo hi then
      finish (s.setChan m
        { c with
          pidMin := s.arg0, pidMax := s.arg1,
          pidOut := q64 (clamp c.pidOut.toInt lo hi), pidInt := q64 (clamp c.pidInt.toInt lo hi) })
    else raise .invalidArgument s

/-- SET_OUTPUT (R206): only in MANUAL. -/
def execSetOutput (m : Nat) (s : State) : Result :=
  onChannel m s fun c =>
    if c.pidMode = .automatic then raise .invalidArgument s
    else
      finish (s.setChan m { c with pidOut := q64 (clamp s.arg0.toInt c.pidMin.toInt c.pidMax.toInt) })

/-- COMPUTE (R207): a step when one is due in AUTOMATIC, and the output in either case. -/
def execCompute (m : Nat) (s : State) : Result :=
  onChannel m s fun c =>
    if c.pidMode = .automatic ∧ pidDue s.now c then
      let d := pidStep s.now m c
      finish1 d.chan.pidOut (s.commit m d)
    else finish1 c.pidOut s

/-- GET_OUTPUT (R208). -/
def execGetOutput (m : Nat) (s : State) : Result :=
  onChannel m s fun c => finish2 c.pidOut c.pidInt s

end Sys2Proof.Machine
end

