-- ==== Sys2Proof/Machine/Scheduler.lean ====
section
/-! DEFINITION. ActionScheduler (45_scheduler.md): the alarm event and the queue commands. -/

namespace Sys2Proof.Machine

/-- EV_ALARM (R278). -/
def execEvAlarm (s : State) : Result :=
  if alarmEnabled s then .next (dispatch s) else .fault .eventNotEnabled

/-- ENQUEUE (R272): the arguments, then the capacity, then the push and DISPATCH. -/
def execEnqueue (m : Nat) (s : State) : Result :=
  onChannel m s fun c =>
    withArg (readAction s.arg0) s fun act =>
      withArg (readPctU s.arg1) s fun pwr =>
        withArg (readU32 s.arg2) s fun dur =>
          if s.params.qcap ≤ c.q.length then raise .resourceExhausted s
          else finish (dispatch (s.setChan m (c.push (pendingEntry act pwr dur))))

/-- The action STOP injects: zero power, zero duration, in the last directional sense (R273). -/
def stopEntry (c : Channel) : Entry := pendingEntry (if c.lastDir then .reverse else .forward) 0 0

/-- STOP (R273): drain, inject, dispatch. -/
def execStop (m : Nat) (s : State) : Result :=
  onChannel m s fun c => finish (dispatch (s.setChan m { c with q := [stopEntry c] }))

/-- QUEUE_STATUS (R274). -/
def execQueueStatus (m : Nat) (s : State) : Result :=
  onChannel m s fun c =>
    let n := BitVec.ofNat 64 c.q.length
    match c.running with
    | some e => finish2 (n ||| (1 <<< 8)) e.dl s
    | none => finish2 n 0 s

/-- The ACT code of R69. -/
def Action.code : Action → U64
  | .idle => 0
  | .forward => 1
  | .reverse => 2

/-- The packed entry of QUEUE_PEEK (R275). -/
def packEntry (e : Entry) : U64 :=
  e.act.code ||| (e.pwr.setWidth 64 <<< 8) ||| (bit64 e.run <<< 16) ||| (e.dur.setWidth 64 <<< 32)

/-- QUEUE_PEEK (R275). -/
def execQueuePeek (m : Nat) (s : State) : Result :=
  onChannel m s fun c =>
    withArg (readEntry c.q s.arg0) s fun e => finish2 (packEntry e) (if e.run then e.dl else 0) s

/-- GET_ALARM (R279). -/
def execGetAlarm (s : State) : Result := onGlobal s (finish2 (bit64 s.alarmArm) s.alarmAt s)

end Sys2Proof.Machine
end

