-- ==== Sys2Proof/Machine/System.lean ====
section
/-! DEFINITION. Time base, flags, NOP (46_system.md) and the reset event (70_reset_and_hazards.md). -/

namespace Sys2Proof.Machine

/-- NOP (R312). -/
def execNop (s : State) : Result := onGlobal s (finish s)

/-- GET_TIME (R311). -/
def execGetTime (s : State) : Result := onGlobal s (finish1 s.now s)

/-- GET_FLAGS (R313). -/
def execGetFlags (m : Nat) (s : State) : Result :=
  onChannel m s fun c => finish1 (c.flags.setWidth 64) s

/-- CLEAR_FLAGS (R314). -/
def execClearFlags (m : Nat) (s : State) : Result :=
  onChannel m s fun c =>
    withArg (readMask3 s.arg0) s fun mask => finish (s.setChan m (c.clearFlags mask))

/-- EV_TIME (R310). It stays enabled while the block is halted. -/
def execEvTime (d : Nat) (s : State) : Result :=
  if timeEnabled d s then .next { s with now := BitVec.ofNat 64 (s.now.toNat + d) }
  else .fault .eventNotEnabled

/-- EV_RESET (R370). -/
def execEvReset (s : State) : Result := .next (resetBlock s)

end Sys2Proof.Machine
end

