-- ==== Sys2Proof/Machine/Velocity.lean ====
section
/-! DEFINITION. VelocitySampler and calibration (42_velocity.md). -/

namespace Sys2Proof.Machine

/-- The due time `ms` milliseconds after `t` (R171, R178). -/
def dueAfter (t : U64) (ms : U32) : U64 := BitVec.ofNat 64 (t.toNat + ms.toNat * 1000)

/-- The velocity of `dpos` counts in `dt` microseconds (R171, R172). -/
def velocityOf (dpos dpp dt : Int) : Int := sat64 (tdiv (dpos * dpp * 1000000) dt)

/-- One sampler tick at time `t` (R171). An elapsed time of zero or less changes neither the velocity nor the previous
pair. The difference of the positions is taken modulo 2^32 (R172). -/
def sampleStep (t : U64) (c : Channel) : Channel :=
  let dt : Int := (t.toNat : Int) - c.vPrevT.toNat
  let c1 :=
    if dt ≤ 0 then c.setFlag flagTanom
    else
      { c with
        vel := q64 (velocityOf (c.edPos - c.vPrevPos).toInt c.calDpp.toInt dt)
        vPrevPos := c.edPos, vPrevT := t }
  { c1 with vNext := dueAfter t c.vPeriodMs }

/-- EV_VTICK (R171). -/
def execEvVtick (m : Nat) (s : State) : Result :=
  onEvent m s (vtickEnabled s) fun c => .next (s.setChan m (sampleStep s.now c))

/-- The distance per count (R174). -/
def distancePerCount (ppr : U32) (d : Int) : Int := tdiv (Config.piRaw * d) (2 ^ 32 * 4 * ppr.toNat)

/-- CALIBRATE (R173). -/
def execCalibrate (m : Nat) (s : State) : Result :=
  onChannel m s fun c =>
    withArg (readPos32 s.arg0) s fun ppr =>
      if s.arg1.toInt ≤ 0 then raise .invalidArgument s
      else
        finish (s.setChan m
          { c with calPpr := ppr, calDiam := s.arg1, calDpp := q64 (distancePerCount ppr s.arg1.toInt) })

/-- GET_CALIBRATION (R176). -/
def execGetCalibration (m : Nat) (s : State) : Result :=
  onChannel m s fun c => finish2 (c.calPpr.setWidth 64) c.calDiam s

/-- GET_VELOCITY (R177). -/
def execGetVelocity (m : Nat) (s : State) : Result :=
  onChannel m s fun c => finish1 c.vel s

/-- SET_VEL_PERIOD (R178): the new period starts now, the previous pair is kept. -/
def execSetVelPeriod (m : Nat) (s : State) : Result :=
  onChannel m s fun c =>
    withArg (readPos32 s.arg0) s fun ms =>
      finish (s.setChan m { c with vPeriodMs := ms, vNext := dueAfter s.now ms })

/-- GET_VEL_PERIOD (R179, R106). DEDUCED (log entry 17; unsafe if wrong): RESULT1 shows V_NEXT, which the summary R73
calls not shown. -/
def execGetVelPeriod (m : Nat) (s : State) : Result :=
  onChannel m s fun c => finish2 (c.vPeriodMs.setWidth 64) c.vNext s

end Sys2Proof.Machine
end

