-- ==== Sys2Proof/Machine/Dispatch.lean ====
section
/-! DEFINITION. The meaning of every instruction, one arm each: the command bodies of R103 and the transitions of R110. -/

namespace Sys2Proof.Machine

def exec (i : Instr) (s : State) : Host.Outcome State Fault Refusal :=
  match i with
  | .nop => Sys2Proof.Machine.execNop s
  | .edReset m => Sys2Proof.Machine.execEdReset m s
  | .edGetcount m => Sys2Proof.Machine.execEdGetcount m s
  | .getPosition m => Sys2Proof.Machine.execGetPosition m s
  | .edGetdiag m => Sys2Proof.Machine.execEdGetdiag m s
  | .calibrate m => Sys2Proof.Machine.execCalibrate m s
  | .getCalibration m => Sys2Proof.Machine.execGetCalibration m s
  | .getVelocity m => Sys2Proof.Machine.execGetVelocity m s
  | .setVelPeriod m => Sys2Proof.Machine.execSetVelPeriod m s
  | .getVelPeriod m => Sys2Proof.Machine.execGetVelPeriod m s
  | .setTarget m => Sys2Proof.Machine.execSetTarget m s
  | .setTunings m => Sys2Proof.Machine.execSetTunings m s
  | .setMode m => Sys2Proof.Machine.execSetMode m s
  | .setInterval m => Sys2Proof.Machine.execSetInterval m s
  | .setLimits m => Sys2Proof.Machine.execSetLimits m s
  | .setOutput m => Sys2Proof.Machine.execSetOutput m s
  | .compute m => Sys2Proof.Machine.execCompute m s
  | .getOutput m => Sys2Proof.Machine.execGetOutput m s
  | .setDuty m => Sys2Proof.Machine.execSetDuty m s
  | .enable m => Sys2Proof.Machine.execEnable m s
  | .disable m => Sys2Proof.Machine.execDisable m s
  | .drift m => Sys2Proof.Machine.execDrift m s
  | .getMotor m => Sys2Proof.Machine.execGetMotor m s
  | .enqueue m => Sys2Proof.Machine.execEnqueue m s
  | .stop m => Sys2Proof.Machine.execStop m s
  | .queueStatus m => Sys2Proof.Machine.execQueueStatus m s
  | .queuePeek m => Sys2Proof.Machine.execQueuePeek m s
  | .getAlarm => Sys2Proof.Machine.execGetAlarm s
  | .getTime => Sys2Proof.Machine.execGetTime s
  | .getFlags m => Sys2Proof.Machine.execGetFlags m s
  | .clearFlags m => Sys2Proof.Machine.execClearFlags m s
  | .evPhase m a b => Sys2Proof.Machine.execEvPhase m a b s
  | .evEdge m => Sys2Proof.Machine.execEvEdge m s
  | .evVtick m => Sys2Proof.Machine.execEvVtick m s
  | .evPtick m => Sys2Proof.Machine.execEvPtick m s
  | .evAlarm => Sys2Proof.Machine.execEvAlarm s
  | .evTime d => Sys2Proof.Machine.execEvTime d s
  | .evReset => Sys2Proof.Machine.execEvReset s

end Sys2Proof.Machine
end

