-- ==== Sys2Proof/Machine/Window.lean ====
section
/-! DEFINITION. The host register window (20_memory.md): the one address space of the QEDC. It has no data memory
behind it; its seven slots are the window registers of the state. -/

namespace Sys2Proof.Machine

/-- The seven slots of the window map (R81). -/
inductive Slot where
  | cmd
  | arg0
  | arg1
  | arg2
  | status
  | result0
  | result1
deriving DecidableEq, Repr

/-- The slot at an offset (R81). -/
def slotAt (off : Nat) : Option Slot :=
  if off = 0x00 then some .cmd
  else if off = 0x08 then some .arg0
  else if off = 0x10 then some .arg1
  else if off = 0x18 then some .arg2
  else if off = 0x20 then some .status
  else if off = 0x28 then some .result0
  else if off = 0x30 then some .result1
  else none

/-- The slot an access reaches, if R85 admits it: 8 bytes wide, at a multiple of 8 below 0x38 from the base. -/
def admittedSlot (base addr width : Nat) : Option Slot :=
  if width = 8 ∧ base ≤ addr then slotAt (addr - base) else none

/-- What a slot reads as (R81, R83). -/
def State.readSlot (s : State) : Slot → U64
  | .cmd => s.cmd.setWidth 64
  | .arg0 => s.arg0
  | .arg1 => s.arg1
  | .arg2 => s.arg2
  | .status => s.status.code.setWidth 64
  | .result0 => s.result0
  | .result1 => s.result1

/-- A write to a slot other than CMD: it sets an ARG register and is ignored by the read-only ones (R83). -/
def State.writeSlot (s : State) (v : U64) : Slot → State
  | .arg0 => { s with arg0 := v }
  | .arg1 => { s with arg1 := v }
  | .arg2 => { s with arg2 := v }
  | .cmd | .status | .result0 | .result1 => s

/-- MemRead: the register at the address goes to the host; nothing else happens (R83). -/
def hostRead (addr width : Nat) (s : State) : Result :=
  match admittedSlot s.params.windowBase addr width with
  | none => .fault .accessNotAdmitted
  | some slot => .next { s with hostData := some (s.readSlot slot) }

/-- The byte of the window at a bus address, little-endian within a slot (R84); outside the window there is none. -/
def State.readByte (s : State) (addr : Nat) : Option Byte :=
  if s.params.windowBase ≤ addr then
    let off := addr - s.params.windowBase
    (slotAt (off / 8 * 8)).map fun slot => (s.readSlot slot).extractLsb' (off % 8 * 8) 8
  else none

/-- The 56 bytes of the window as address and byte pairs: the whole address space (R80). DEDUCED (log entry 12; safe):
there is no memory behind it. -/
def State.windowCells (s : State) : List Host.Cell :=
  (List.range 56).filterMap fun k =>
    (s.readByte (s.params.windowBase + k)).map fun b => (s.params.windowBase + k, b)

/-- The canonical form of such a list: addresses strictly rising. An unlisted address reads as nothing, so no entry can
equal what it reads as. -/
def Memory.wf (cells : List Host.Cell) : Bool := decide ((cells.map Prod.fst).Pairwise (· < ·))

end Sys2Proof.Machine
end

