-- ==== Sys2Proof/Machine/Transaction.lean ====
section
/-! DEFINITION. How a command or an event reaches its meaning: the CMD write with its checks (R82, R103, R333), the event
records (R100, R110), and the internal agents, who step on their own (R8, R345). -/

namespace Sys2Proof.Machine

/-- A command word that is no command: the halt is reported first, else ILLEGAL_COMMAND, with no other effect (R103,
R107, R108, R109). -/
def rejectWord (s : State) : Result := onGlobal s (raise .illegalCommand s)

/-- The command `w` stands in G.CMD and runs (R103). -/
def runCommandWord (w : U32) (s : State) : Result :=
  match decodeCommand w with
  | .ok i => exec i s
  | .error _ => rejectWord s

/-- `MemWrite(0x00, 8, v)`: a command transaction (R82). Nonzero upper bits are checked before everything else (R333). -/
def commandWrite (v : U64) (s : State) : Result :=
  let w : U32 := v.setWidth 32
  let s1 := { s with cmd := w }
  if v.extractLsb' 32 32 ≠ 0 then raise .illegalCommand s1 else runCommandWord w s1

/-- MemWrite (R82, R83, R85). -/
def hostWrite (addr width : Nat) (v : U64) (s : State) : Result :=
  match admittedSlot s.params.windowBase addr width with
  | none => .fault .accessNotAdmitted
  | some .cmd => commandWrite v s
  | some slot => .next (s.writeSlot v slot)

/-- The event that a record names takes place, if it is one of R110 and is enabled. DEDUCED (log entry 13; unsafe): its
ARG0 is the record's own, not G.ARG0 (R102). -/
def runEvent (w : U32) (arg0 : U64) (s : State) : Result :=
  match decodeWord w arg0 with
  | .ok i => if i.isEvent then exec i s else .fault .notAnEvent
  | .error _ => .fault .notAnEvent

/-- One move (R345). -/
def perform (mv : Move) (s : State) : Result :=
  match mv with
  | .hostWrite addr width v => hostWrite addr width v s
  | .hostRead addr width => hostRead addr width s
  | .event w a => runEvent w a s

/-- The internal events of channel `m` that are enabled (R110, R339). -/
def enabledOnChannel (s : State) (m : Nat) : List Instr :=
  match s.chans[m]? with
  | none => []
  | some c =>
    (if edgeEnabled s c then [Instr.evEdge m] else []) ++
    (if vtickEnabled s c then [Instr.evVtick m] else []) ++
    (if ptickEnabled s c then [Instr.evPtick m] else [])

/-- Every internal event that is enabled: edges, ticks and the alarm (R110, R339). -/
def enabledEvents (s : State) : List Instr :=
  (List.range s.chans.length).flatMap (enabledOnChannel s) ++ (if alarmEnabled s then [Instr.evAlarm] else [])

/-- No internal event is enabled (R396). -/
def quiescent (s : State) : Bool := (enabledEvents s).isEmpty

/-- With no move waiting, an internal agent whose event is enabled steps; which one is a free value (R345). Where none
is enabled the run is at a quiescent end (R396). -/
def internalStep (s : State) : Result :=
  let es := enabledEvents s
  match es[Config.freePick s.choices % es.length]? with
  | some i => exec i { s with choices := s.choices + 1 }
  | none => .fault .quiescent

/-- The move that makes the machine run the record of word `w` and ARG0 `d` next: an event record for the codes from
0xE0 on, a host write to CMD for any other word (R82, R100, R108). -/
def moveOfRecord (base : Nat) (w : U32) (d : U64) : Move :=
  if 0xE0 ≤ (opcodeField w).toNat then .event w d else .hostWrite base 8 (w.setWidth 64)

/-- The move of an instruction. -/
def moveOf (base : Nat) (i : Instr) : Move := moveOfRecord base (encodeWord i) i.recordArg0

end Sys2Proof.Machine
end

