-- ==== Sys2Proof/Machine/Step.lean ====
section
/-! DEFINITION. One step of the QEDC: the next waiting move of the agenda, or, when none is waiting, an internal event
that is enabled (R8, R345). There is no program counter (R32): the agenda is where the next transaction comes from. -/

namespace Sys2Proof.Machine

/-- One transition (R345). -/
def step (s : State) : Host.Outcome State Fault Refusal :=
  match s.agenda with
  | mv :: rest => perform mv { s with agenda := rest }
  | [] => internalStep s

/-- The state with the transaction of bits `w` as the next move: bits from `nbits` on are 0, bits 31..0 are the word
and bits 95..32 ARG0 of an event record. -/
def State.withFetchWord (s : State) (nbits w : Nat) : State :=
  let r := w % 2 ^ nbits
  { s with
    agenda := moveOfRecord s.params.windowBase (BitVec.ofNat 32 r) (BitVec.ofNat 64 (r / 2 ^ 32)) :: s.agenda }

end Sys2Proof.Machine
end

