-- ==== Sys2Proof/Safety.lean ====
section
/-! DEFINITION. What counts as a sound state of the QEDC: the invariants 10_state.md and the Properties sections give,
in the terms the statements use, and a few words for stating them. -/

namespace Sys2Proof.Machine

/-! ## Words for the statements -/

/-- What a channel command needs beyond its arguments: the block is not halted and channel `m` exists (R103). -/
abbrev Ready (s : State) (m : Nat) (c : Channel) : Prop := s.cfgHalt = false ∧ s.chans[m]? = some c

/-- The command or event word with opcode `op` and MOTOR `m`, as a number (R101, R102). -/
def wordOf (op m : Nat) : U32 := BitVec.ofNat 32 (op * 2 ^ 24 + m * 2 ^ 20)

/-- Bits 63:32 of a value written to CMD are zero (R82). -/
abbrev UpperClear (v : U64) : Prop := v.toNat < 2 ^ 32

/-- The duty `v` is in range and the motor enabled: setDutyCycle accepts it (R244). -/
abbrev DutyAccepted (v : Int) (c : Channel) : Prop := -100 ≤ v ∧ v ≤ 100 ∧ c.en = true

/-- Commands and events that run DISPATCH (R276). -/
def Sched (i : Instr) : Prop := (∃ m, i = .enqueue m) ∨ (∃ m, i = .stop m) ∨ i = .evAlarm

/-- Commands and events that may run PID_STEP on channel `m` (R210). -/
def PidRun (m : Nat) (i : Instr) : Prop := i = .evPtick m ∨ i = .compute m

/-- Commands and events that may run SET_DUTY_CORE on channel `m` (R244). -/
def DutyRun (m : Nat) (i : Instr) : Prop := i = .setDuty m ∨ PidRun m i ∨ Sched i

/-- One turn of the wheel by a quarter of a slot, clockwise or not. -/
inductive WheelTurn where
  | cw
  | ccw
deriving DecidableEq, Repr

/-- The level change of one turn and its edge event, on channel `m` (R152). -/
def turnOnce (m : Nat) (w : WheelTurn) (s : State) : Option State :=
  match s.chans[m]? with
  | none => none
  | some c =>
    let n := match w with
      | .cw => cwNext (quad c.qa c.qb)
      | .ccw => ccwNext (quad c.qa c.qb)
    match exec (.evPhase m (n.getLsbD 1) (n.getLsbD 0)) s with
    | .next s1 =>
      match exec (.evEdge m) s1 with
      | .next s2 => some s2
      | _ => none
    | _ => none

/-- A sequence of turns, each handled before the next (R152). -/
def turnAll (m : Nat) : List WheelTurn → State → Option State
  | [], s => some s
  | w :: ws, s => (turnOnce m w s).bind (turnAll m ws)

/-- Clockwise turns less counter-clockwise ones. -/
def netTurns : List WheelTurn → Int
  | [] => 0
  | .cw :: ws => netTurns ws + 1
  | .ccw :: ws => netTurns ws - 1

/-! ## Invariants of one channel -/

/-- The output stage (R66, R67, R249): no brake, nothing driven while disabled, a percent. -/
abbrev OutputsSound (c : Channel) : Prop :=
  ¬(c.dirA = true ∧ c.dirB = true) ∧
    (c.en = false → c.pwm = 0 ∧ c.dirA = false ∧ c.dirB = false) ∧ c.pwm.toNat ≤ 100

/-- The PID limits and the output within them (R56, R64, R213). -/
abbrev PidSound (c : Channel) : Prop :=
  fx (-100) ≤ c.pidMin.toInt ∧ c.pidMin.toInt < c.pidMax.toInt ∧ c.pidMax.toInt ≤ fx 100 ∧
    c.pidMin.toInt ≤ c.pidOut.toInt ∧ c.pidOut.toInt ≤ c.pidMax.toInt

/-- The queue (R69, R70, R281): its capacity, the percent of each entry, and only the head RUNNING. -/
abbrev QueueSound (qcap : Nat) (c : Channel) : Prop :=
  c.q.length ≤ qcap ∧ (∀ e ∈ c.q, e.pwr.toNat ≤ 100) ∧ ∀ e ∈ c.q.tail, e.run = false

/-- With no edge pending, the last state is the state of the levels. DEDUCED from R142, R144, R148 and R370 (log entry
15; safe). -/
abbrev DecoderSound (c : Channel) : Prop := c.edPend = false → c.edLast = quad c.qa c.qb

/-! ## Invariants of the block -/

/-- The halt says whether the configuration is invalid (R37, R372); the parameters are fixed, so it lasts (R336). -/
abbrev HaltSound (s : State) : Prop := s.cfgHalt = !s.configValid

/-- A halted block keeps its outputs at their reset values and its queues empty (R336). -/
abbrev HaltQuiet (s : State) : Prop :=
  s.cfgHalt = true →
    ∀ c ∈ s.chans, c.en = false ∧ c.dirA = false ∧ c.dirB = false ∧ c.pwm = 0 ∧ c.q = []

/-- The single alarm (R280): armed exactly when some head runs, and then for the earliest deadline; 0 when disarmed
(R276). -/
abbrev AlarmSound (s : State) : Prop :=
  (s.alarmArm = true ↔ ∃ c ∈ s.chans, c.running.isSome = true) ∧
    (s.alarmArm = true →
      (∃ c ∈ s.chans, c.running.map (·.dl) = some s.alarmAt) ∧
        ∀ c ∈ s.chans, ∀ e ∈ c.running, s.alarmAt.toNat ≤ e.dl.toNat) ∧
    (s.alarmArm = false → s.alarmAt = 0)

/-- Time and the registers compared with it (R38, R49, R60, R181). -/
abbrev TimeSound (s : State) : Prop :=
  s.now.toNat ≤ Config.timeMax ∧
    ∀ c ∈ s.chans, c.vPrevT.toNat ≤ s.now.toNat ∧ c.pidLast.toNat ≤ s.now.toNat ∧
      (s.cfgHalt = false →
        1 ≤ c.vPeriodMs.toNat ∧ 1 ≤ c.pidTMs.toNat ∧ c.vPrevT.toNat + 1000 ≤ c.vNext.toNat)

/-- Every channel of the block satisfies `p`. -/
abbrev EachChannel (p : Channel → Prop) (s : State) : Prop := ∀ c ∈ s.chans, p c

/-! ## Runs -/

/-- The command or event that the next step runs, if it runs one: an access to another slot than CMD and a word that is
no command run none. -/
def stepInstr (s : State) : Option Instr :=
  match s.agenda with
  | .event w a :: _ => (decodeWord w a).toOption
  | .hostWrite addr width v :: _ =>
    if admittedSlot s.params.windowBase addr width = some .cmd ∧ v.extractLsb' 32 32 = 0 then
      (decodeCommand (v.setWidth 32)).toOption
    else none
  | .hostRead _ _ :: _ => none
  | [] => (enabledEvents s)[Config.freePick s.choices % (enabledEvents s).length]?

/-- The states of the runs from power-on (R371, R396): for any parameters and any levels, with any moves that the outside
agents choose before each transition (log entry 1). -/
inductive Reached : State → Prop
  | powerOn (p : Params) (cs : List (ChannelParams × Bool × Bool)) : Reached (State.powerOn p cs)
  | chosen {s : State} (moves : List Move) : Reached s → Reached { s with agenda := moves }
  | stepped {s t : State} : Reached s → step s = .next t → Reached t

/-- What the next step may run between a switch of channel `m` to AUTOMATIC and the first PID step there (R214): anything
but that step (R207, R209), a switch back to MANUAL (R203), SET_LIMITS on the channel, which clamps the output itself
(R205), and a reset (R370). -/
def LeavesTheSeed (m : Nat) (s : State) : Prop :=
  ∀ i, stepInstr s = some i →
    i ≠ .evPtick m ∧ i ≠ .setLimits m ∧ i ≠ .evReset ∧ (i = .setMode m → s.arg0 ≠ 0) ∧
      (i = .compute m → ∀ c, s.chans[m]? = some c →
        (s.now.toNat : Int) - c.pidLast.toNat < (c.pidTMs.toNat : Int) * 1000)

/-- The states that steps of this kind reach from `s`, with any moves that the outside agents choose before each step. -/
inductive BeforeFirstPidStep (m : Nat) (s : State) : State → Prop
  | switched : BeforeFirstPidStep m s s
  | chosen {t : State} (moves : List Move) :
      BeforeFirstPidStep m s t → BeforeFirstPidStep m s { t with agenda := moves }
  | stepped {t u : State} :
      BeforeFirstPidStep m s t → LeavesTheSeed m t → step t = .next u → BeforeFirstPidStep m s u

/-- Weak fairness of an infinite run (R345): an internal event that stays enabled eventually runs. Between two steps the
outside agents may choose their moves anew. -/
def WeaklyFair (run : Nat → State) : Prop :=
  (∀ n, ∃ t moves, step (run n) = .next t ∧ run (n + 1) = { t with agenda := moves }) ∧
    ∀ i n, ∃ k, n ≤ k ∧ (i ∈ enabledEvents (run k) → stepInstr (run k) = some i)

end Sys2Proof.Machine
end

