-- ==== Sys2Proof/Certificates/Slice0/Obligations.lean ====
section
/-! DEFINITION. The statements for the provers. A statement's docstring names the rules of spec/ it formalises; where it
rests on a choice of the model it says so and names the log entry. -/

open Sys2Proof Sys2Proof.Machine

/-! ## Encoding -/

/-- R101, R102: the words of the two formats lose nothing. Decoding the bytes of an encoded well-formed instruction
gives it back. -/
def Obligations.DecodeOfEncodeIsIdentity : Prop :=
  ∀ i : Instr, i.wellFormed = true → decode (encode i) = .ok i

/-- R101, R102, R107 to R109: a word that decodes is the word of the instruction it decodes to, so no reserved encoding
falls through to a neighbour. -/
def Obligations.DecodedWordIsTheEncodedWord : Prop :=
  ∀ (w : U32) (a : U64) (i : Instr), decodeWord w a = .ok i →
    i.wellFormed = true ∧ encodeWord i = w ∧ (∀ d, i = .evTime d → d = a.toNat)

/-- R101, R102, R106, R110: words written out from the two formats and the opcode map decode to the commands and events
they stand for, with the levels of EV_PHASE in bits 1 and 0 and the advance of EV_TIME from the record. -/
def Obligations.WrittenWordsDecode : Prop :=
  (decodeCommand 0x00000000#32 = .ok .nop ∧ decodeCommand 0x01300000#32 = .ok (.edReset 3) ∧
   decodeCommand 0x10000000#32 = .ok (.calibrate 0) ∧ decodeCommand 0x21F00000#32 = .ok (.setTunings 15) ∧
   decodeCommand 0x31100000#32 = .ok (.enable 1) ∧ decodeCommand 0x40100000#32 = .ok (.enqueue 1) ∧
   decodeCommand 0x44000000#32 = .ok .getAlarm ∧ decodeCommand 0x52100000#32 = .ok (.clearFlags 1)) ∧
  decodeWord 0xE0000002#32 0 = .ok (.evPhase 0 true false) ∧
  decodeWord 0xE0100001#32 0 = .ok (.evPhase 1 false true) ∧ decodeWord 0xE1100000#32 0 = .ok (.evEdge 1) ∧
  decodeWord 0xE2000000#32 0 = .ok (.evVtick 0) ∧ decodeWord 0xE3000000#32 0 = .ok (.evPtick 0) ∧
  decodeWord 0xE4000000#32 0 = .ok .evAlarm ∧ decodeWord 0xE5000000#32 100000 = .ok (.evTime 100000) ∧
  decodeWord 0xE6000000#32 0 = .ok .evReset

/-- R107, R108: a reserved opcode or an event code, written to CMD of a block that is not halted, finishes with
ILLEGAL_COMMAND and has no other effect. -/
def Obligations.ReservedAndEventOpcodesAreIllegal : Prop :=
  ∀ (s : State) (v : U64), UpperClear v → s.cfgHalt = false →
    (let op := v.toNat / 2 ^ 24
     (0x05 ≤ op ∧ op ≤ 0x0F) ∨ (0x15 ≤ op ∧ op ≤ 0x1F) ∨ (0x28 ≤ op ∧ op ≤ 0x2F) ∨ (0x35 ≤ op ∧ op ≤ 0x3F) ∨
       (0x45 ≤ op ∧ op ≤ 0x4F) ∨ (0x53 ≤ op ∧ op ≤ 0xDF) ∨ (0xE0 ≤ op ∧ op ≤ 0xFF)) →
    commandWrite v s = .next { s with cmd := v.setWidth 32, status := .illegalCommand }

/-- R109: nonzero reserved bits and a nonzero MOTOR of a global command are illegal; a MOTOR beyond the channels of a
channel command is an invalid argument. The opcodes in the third clause are the channel commands of R105. -/
def Obligations.MalformedCommandWordsAreRejected : Prop :=
  ∀ (s : State) (v : U64), UpperClear v → s.cfgHalt = false →
    (v.toNat % 2 ^ 20 ≠ 0 →
      commandWrite v s = .next { s with cmd := v.setWidth 32, status := .illegalCommand }) ∧
    ((v.toNat / 2 ^ 24 = 0x00 ∨ v.toNat / 2 ^ 24 = 0x44 ∨ v.toNat / 2 ^ 24 = 0x50) → v.toNat / 2 ^ 20 % 16 ≠ 0 →
      commandWrite v s = .next { s with cmd := v.setWidth 32, status := .illegalCommand }) ∧
    (v.toNat % 2 ^ 20 = 0 →
      (let op := v.toNat / 2 ^ 24
       (0x01 ≤ op ∧ op ≤ 0x04) ∨ (0x10 ≤ op ∧ op ≤ 0x14) ∨ (0x20 ≤ op ∧ op ≤ 0x27) ∨ (0x30 ≤ op ∧ op ≤ 0x34) ∨
         (0x40 ≤ op ∧ op ≤ 0x43) ∨ (0x51 ≤ op ∧ op ≤ 0x52)) →
      s.chans.length ≤ v.toNat / 2 ^ 20 % 16 →
      commandWrite v s = .next { s with cmd := v.setWidth 32, status := .invalidArgument })

/-- R82, R103, R333: the causes of a rejection are looked at in the order upper CMD bits, halt, word, channel, and then
the command's own body runs. -/
def Obligations.CommandChecksRunInOrder : Prop :=
  ∀ (s : State) (v : U64),
    (¬UpperClear v → commandWrite v s = .next { s with cmd := v.setWidth 32, status := .illegalCommand }) ∧
    (UpperClear v → s.cfgHalt = true →
      commandWrite v s = .next { s with cmd := v.setWidth 32, status := .configurationError }) ∧
    (UpperClear v → s.cfgHalt = false → (∀ i, decodeCommand (v.setWidth 32) ≠ .ok i) →
      commandWrite v s = .next { s with cmd := v.setWidth 32, status := .illegalCommand }) ∧
    (∀ i, UpperClear v → s.cfgHalt = false → decodeCommand (v.setWidth 32) = .ok i →
      commandWrite v s = exec i { s with cmd := v.setWidth 32 } ∧
      ∀ m, i.channel = some m → s.chans.length ≤ m →
        commandWrite v s = .next { s with cmd := v.setWidth 32, status := .invalidArgument })

/-! ## Steps and the host window -/

/-- R82, R103 with the agenda of the model (log entry 1): when the next move is a host write of a command word, the step
is the meaning of the decoded command on the state with that move gone and the word in G.CMD. -/
def Obligations.StepRunsTheDecodedCommand : Prop :=
  ∀ (s : State) (w : U32) (i : Instr) (rest : List Move),
    s.agenda = .hostWrite s.params.windowBase 8 (w.setWidth 64) :: rest → decodeCommand w = .ok i →
    step s = exec i { s with agenda := rest, cmd := w }

/-- R100, R102, R110 with the agenda of the model (log entry 1): when the next move is an event record, the step is the
meaning of the event on the state with that move gone. The record's ARG0 is not G.ARG0. -/
def Obligations.StepRunsTheDecodedEvent : Prop :=
  ∀ (s : State) (w : U32) (a : U64) (i : Instr) (rest : List Move),
    s.agenda = .event w a :: rest → decodeWord w a = .ok i → i.isEvent = true →
    step s = exec i { s with agenda := rest }

/-- R345, R396 with the agenda of log entry 1 and the free choice of log entry 2: with no move waiting, the step runs some
internal event that is enabled, and it has a next state. That a quiescent block with no move waiting is the fault quiescent
is the model's choice (log entry 5): R396 defines a quiescent end and does not say that the hardware stops. -/
def Obligations.IdleStepRunsAnEnabledInternalEvent : Prop :=
  ∀ s : State, s.agenda = [] →
    (quiescent s = true → step s = .fault .quiescent) ∧
    (quiescent s = false →
      ∃ i ∈ enabledEvents s, ∃ t, exec i { s with choices := s.choices + 1 } = .next t ∧ step s = .next t)

/-- R110, R339: the internal events listed as enabled are exactly those whose enable condition holds. -/
def Obligations.EnabledEventsMeetTheirConditions : Prop :=
  ∀ (s : State) (i : Instr), i ∈ enabledEvents s ↔
    s.cfgHalt = false ∧
      ((∃ m c, s.chans[m]? = some c ∧
          ((i = .evEdge m ∧ c.edPend = true) ∨
           (i = .evVtick m ∧ c.vNext.toNat ≤ s.now.toNat) ∨
           (i = .evPtick m ∧ c.pidMode = .automatic ∧
             (s.now.toNat : Int) - c.pidLast.toNat ≥ (c.pidTMs.toNat : Int) * 1000))) ∨
       (i = .evAlarm ∧ s.alarmArm = true ∧ s.alarmAt.toNat ≤ s.now.toNat))

/-- R85, R87: an access that is 8 bytes wide, aligned and inside the window has a next state; any other has no step, which
the model shows as the fault accessNotAdmitted (its choice, log entry 6). -/
def Obligations.WindowAdmitsExactlyAlignedSlots : Prop :=
  ∀ (s : State) (addr width : Nat) (v : U64),
    (width = 8 ∧ s.params.windowBase ≤ addr ∧ (addr - s.params.windowBase) % 8 = 0 ∧
        addr - s.params.windowBase < 0x38 →
      (∃ t, perform (.hostWrite addr width v) s = .next t) ∧ ∃ t, perform (.hostRead addr width) s = .next t) ∧
    (¬(width = 8 ∧ s.params.windowBase ≤ addr ∧ (addr - s.params.windowBase) % 8 = 0 ∧
        addr - s.params.windowBase < 0x38) →
      perform (.hostWrite addr width v) s = .fault .accessNotAdmitted ∧
        perform (.hostRead addr width) s = .fault .accessNotAdmitted)

/-- R81, R83, R330: a write to an ARG slot sets that register alone, a write to STATUS or a RESULT is ignored, and a read
returns the register of its slot, for STATUS its code, and changes no register. `hostData` is where the model shows what
a read returned (log entry 8). -/
def Obligations.WindowReadsAndWritesItsRegisters : Prop :=
  ∀ (s : State) (v : U64),
    perform (.hostWrite (s.params.windowBase + 0x08) 8 v) s = .next { s with arg0 := v } ∧
    perform (.hostWrite (s.params.windowBase + 0x10) 8 v) s = .next { s with arg1 := v } ∧
    perform (.hostWrite (s.params.windowBase + 0x18) 8 v) s = .next { s with arg2 := v } ∧
    perform (.hostWrite (s.params.windowBase + 0x20) 8 v) s = .next s ∧
    perform (.hostWrite (s.params.windowBase + 0x28) 8 v) s = .next s ∧
    perform (.hostWrite (s.params.windowBase + 0x30) 8 v) s = .next s ∧
    perform (.hostRead s.params.windowBase 8) s = .next { s with hostData := some (s.cmd.setWidth 64) } ∧
    perform (.hostRead (s.params.windowBase + 0x08) 8) s = .next { s with hostData := some s.arg0 } ∧
    perform (.hostRead (s.params.windowBase + 0x10) 8) s = .next { s with hostData := some s.arg1 } ∧
    perform (.hostRead (s.params.windowBase + 0x18) 8) s = .next { s with hostData := some s.arg2 } ∧
    perform (.hostRead (s.params.windowBase + 0x20) 8) s =
      .next { s with
        hostData := some (match s.status with
          | .ok => 0
          | .invalidArgument => 1
          | .resourceExhausted => 2
          | .disabled => 3
          | .configurationError => 4
          | .illegalCommand => 5) } ∧
    perform (.hostRead (s.params.windowBase + 0x28) 8) s = .next { s with hostData := some s.result0 } ∧
    perform (.hostRead (s.params.windowBase + 0x30) 8) s = .next { s with hostData := some s.result1 }

/-- R84: the byte at `offset + k` of a slot is bits `8k+7 .. 8k` of its register, for every slot and every `k` in
0..7. -/
def Obligations.WindowBytesAreLittleEndian : Prop :=
  ∀ (s : State) (off k : Nat) (slot : Slot), slotAt off = some slot → k < 8 →
    s.readByte (s.params.windowBase + off + k) = some ((s.readSlot slot).extractLsb' (8 * k) 8)

/-! ## Checks common to the commands -/

/-- R331: a command that is rejected leaves everything as it was but G.CMD, G.STATUS and the one DUTY event of a
disabled SET_DUTY. -/
def Obligations.RejectionsRetainTheState : Prop :=
  ∀ (s t : State) (v : U64), commandWrite v s = .next t → t.status ≠ .ok →
    t = { s with cmd := v.setWidth 32, status := t.status } ∨
    ∃ m d, decodeCommand (v.setWidth 32) = .ok (.setDuty m) ∧ t.status = .disabled ∧
      t = { s with
        cmd := v.setWidth 32, status := .disabled, outlog := s.outlog ++ [.duty m d .host .disabled] }

/-- R336: a halted block answers CONFIGURATION_ERROR to every command, runs no edge, tick or alarm, and still takes
phase changes, time and resets; a reset that finds the configuration still invalid leaves the halt set. That an event
which is not enabled is the fault eventNotEnabled is the model's choice (log entry 5). -/
def Obligations.ConfigurationHaltFreezesTheBlock : Prop :=
  ∀ s : State, s.cfgHalt = true →
    (∀ i : Instr, i.isEvent = false → exec i s = .next { s with status := .configurationError }) ∧
    (∀ m, m < s.chans.length →
      exec (.evEdge m) s = .fault .eventNotEnabled ∧ exec (.evVtick m) s = .fault .eventNotEnabled ∧
      exec (.evPtick m) s = .fault .eventNotEnabled ∧ ∀ a b, ∃ t, exec (.evPhase m a b) s = .next t) ∧
    exec .evAlarm s = .fault .eventNotEnabled ∧
    (∀ d, 1 ≤ d → s.now.toNat + d ≤ 2 ^ 63 - 1 → ∃ t, exec (.evTime d) s = .next t) ∧
    (s.configValid = false → ∃ t, exec .evReset s = .next t ∧ t.cfgHalt = true)

/-! ## EdgeDecoder -/

/-- R142: EV_PHASE sets the levels, and the pending edge when a level changes. -/
def Obligations.PhaseEventSetsLevelsAndPendingEdge : Prop :=
  (∀ m < 16, ∀ a b : Bool,
    decodeWord (wordOf 0xE0 m + BitVec.ofNat 32 (2 * a.toNat + b.toNat)) 0 = .ok (.evPhase m a b)) ∧
  ∀ (s : State) (m : Nat) (c : Channel) (a b : Bool), s.chans[m]? = some c →
    exec (.evPhase m a b) s =
      .next { s with
        chans := s.chans.set m
          { c with qa := a, qb := b, edPend := if a = c.qa ∧ b = c.qb then c.edPend else true } }

/-- R144, R145, R146: the edge handler by the table of R141. A step along the ring counts by one, wrapping; the same
state changes nothing but the pending bit; a diagonal is dropped, counted with saturation, and the last state follows.
Without a pending edge, or halted, the event is not enabled; that this is the fault eventNotEnabled is the model's choice
(log entry 5). -/
def Obligations.EdgeEventCountsByTheTable : Prop :=
  (∀ m < 16, decodeWord (wordOf 0xE1 m) 0 = .ok (.evEdge m)) ∧
  (∀ (s : State) (m : Nat) (c : Channel), s.chans[m]? = some c → c.edPend = false ∨ s.cfgHalt = true →
    exec (.evEdge m) s = .fault .eventNotEnabled) ∧
  ∀ (s : State) (m : Nat) (c : Channel), Ready s m c → c.edPend = true →
    let n := quad c.qa c.qb
    ((c.edLast, n) ∈ [(0#2, 2#2), (2#2, 3#2), (3#2, 1#2), (1#2, 0#2)] →
      exec (.evEdge m) s =
        .next { s with chans := s.chans.set m { c with edPend := false, edPos := c.edPos + 1, edLast := n } }) ∧
    ((c.edLast, n) ∈ [(2#2, 0#2), (3#2, 2#2), (1#2, 3#2), (0#2, 1#2)] →
      exec (.evEdge m) s =
        .next { s with chans := s.chans.set m { c with edPend := false, edPos := c.edPos - 1, edLast := n } }) ∧
    (c.edLast = n → exec (.evEdge m) s = .next { s with chans := s.chans.set m { c with edPend := false } }) ∧
    (c.edLast ^^^ n = 3#2 →
      exec (.evEdge m) s =
        .next { s with
          chans := s.chans.set m
            { c with
              edPend := false, diagCnt := if c.diagCnt.toNat = 2 ^ 32 - 1 then c.diagCnt else c.diagCnt + 1,
              edLast := n } })

/-- R148: ED_RESET clears the count and the diagonal count, takes the levels as the last state and re-bases the sampler;
the pending edge stays. -/
def Obligations.EdResetTakesTheLevelsAsBaseline : Prop :=
  (∀ m < 16, decodeCommand (wordOf 0x01 m) = .ok (.edReset m)) ∧
  ∀ (s : State) (m : Nat) (c : Channel), Ready s m c →
    exec (.edReset m) s =
      .next { s with
        status := .ok
        chans := s.chans.set m { c with edPos := 0, edLast := quad c.qa c.qb, diagCnt := 0, vPrevPos := 0 } }

/-- R149, R150, R151: the decoder's reads. The distance is the exact product, saturated; RESULT1 of ED_GETCOUNT is not
written. -/
def Obligations.EncoderReadsReturnCountDistanceAndDiagnostics : Prop :=
  (∀ m < 16, decodeCommand (wordOf 0x02 m) = .ok (.edGetcount m) ∧
    decodeCommand (wordOf 0x03 m) = .ok (.getPosition m) ∧ decodeCommand (wordOf 0x04 m) = .ok (.edGetdiag m)) ∧
  ∀ (s : State) (m : Nat) (c : Channel), Ready s m c →
    exec (.edGetcount m) s = .next { s with status := .ok, result0 := BitVec.ofInt 64 c.edPos.toInt } ∧
    exec (.getPosition m) s =
      .next { s with
        status := .ok
        result0 := BitVec.ofInt 64 (max (-2 ^ 63) (min (2 ^ 63 - 1) (c.edPos.toInt * c.calDpp.toInt)))
        result1 := BitVec.ofInt 64 c.edPos.toInt } ∧
    exec (.edGetdiag m) s =
      .next { s with
        status := .ok
        result0 := BitVec.ofNat 64 c.diagCnt.toNat
        result1 := BitVec.ofNat 64
          (16 * c.qa.toNat + 8 * c.qb.toNat + 4 * c.edPend.toNat + c.edLast.toNat) }

/-- R152: along any sequence of adjacent moves, each handled before the next, from a state with no edge pending and the
last state equal to the levels, the count moves by the clockwise turns less the counter-clockwise ones, modulo 2^32. -/
def Obligations.CountFollowsTheNetTurns : Prop :=
  ∀ (ws : List WheelTurn) (s : State) (m : Nat) (c : Channel), Ready s m c → DecoderSound c → c.edPend = false →
    ∃ t c', turnAll m ws s = some t ∧ t.chans[m]? = some c' ∧ DecoderSound c' ∧ c'.edPend = false ∧
      c'.diagCnt = c.diagCnt ∧ c'.edPos = c.edPos + BitVec.ofInt 32 (netTurns ws)

/-- DEDUCED from R142, R144, R148, R370: every step keeps, for each channel, that with no edge pending the last state is
the state of the levels. -/
def Obligations.StepKeepsTheDecoderInStep : Prop :=
  ∀ s t : State, EachChannel DecoderSound s → step s = .next t → EachChannel DecoderSound t

/-! ## VelocitySampler and calibration -/

/-- R170, R171, R172: the sampler tick. With time elapsed it takes the velocity of the wrapped count difference and the
new pair; with none it flags the anomaly and keeps both; either way the next due time counts from now. Before its due
time, or halted, the tick is not enabled; that this is the fault eventNotEnabled is the model's choice (log entry 5). -/
def Obligations.VelocityTickSamplesOrFlags : Prop :=
  (∀ m < 16, decodeWord (wordOf 0xE2 m) 0 = .ok (.evVtick m)) ∧
  (∀ (s : State) (m : Nat) (c : Channel), s.chans[m]? = some c →
    s.now.toNat < c.vNext.toNat ∨ s.cfgHalt = true → exec (.evVtick m) s = .fault .eventNotEnabled) ∧
  ∀ (s : State) (m : Nat) (c : Channel), Ready s m c → c.vNext.toNat ≤ s.now.toNat →
    (s.now.toNat ≤ c.vPrevT.toNat →
      exec (.evVtick m) s =
        .next { s with
          chans := s.chans.set m
            { c with
              flags := c.flags ||| 1#3
              vNext := BitVec.ofNat 64 (s.now.toNat + c.vPeriodMs.toNat * 1000) } }) ∧
    (c.vPrevT.toNat < s.now.toNat →
      exec (.evVtick m) s =
        .next { s with
          chans := s.chans.set m
            { c with
              vel := BitVec.ofInt 64 (sat64 (tdiv ((c.edPos - c.vPrevPos).toInt * c.calDpp.toInt * 1000000)
                ((s.now.toNat : Int) - c.vPrevT.toNat)))
              vPrevPos := c.edPos, vPrevT := s.now
              vNext := BitVec.ofNat 64 (s.now.toNat + c.vPeriodMs.toNat * 1000) } })

/-- R181: in a state whose times are sound, a tick that runs has at least 1000 µs behind it and raises no anomaly. -/
def Obligations.EnabledTickHasElapsedTime : Prop :=
  ∀ (s t : State) (m : Nat) (c : Channel), TimeSound s → s.chans[m]? = some c → exec (.evVtick m) s = .next t →
    c.vPrevT.toNat + 1000 ≤ s.now.toNat ∧ ∃ c', t.chans[m]? = some c' ∧ c'.flags = c.flags ∧ c'.vPrevT = s.now

/-- R173, R174: CALIBRATE stores the count and the diameter and computes the distance per count, or rejects a count
or diameter that is not positive or does not fit. -/
def Obligations.CalibrateStoresAndComputes : Prop :=
  (∀ m < 16, decodeCommand (wordOf 0x10 m) = .ok (.calibrate m)) ∧
  ∀ (s : State) (m : Nat) (c : Channel), Ready s m c →
    (1 ≤ s.arg0.toNat → s.arg0.toNat < 2 ^ 32 → 0 < s.arg1.toInt →
      exec (.calibrate m) s =
        .next { s with
          status := .ok
          chans := s.chans.set m
            { c with
              calPpr := s.arg0.setWidth 32, calDiam := s.arg1
              calDpp := BitVec.ofInt 64
                (tdiv (13493037705 * s.arg1.toInt) (2 ^ 32 * 4 * (s.arg0.toNat : Int))) } }) ∧
    (s.arg0.toNat = 0 ∨ 2 ^ 32 ≤ s.arg0.toNat ∨ s.arg1.toInt ≤ 0 →
      exec (.calibrate m) s = .next { s with status := .invalidArgument })

/-- R180: GET_CALIBRATION after CALIBRATE returns what was given. -/
def Obligations.CalibrationReadsBackExactly : Prop :=
  ∀ (s : State) (m : Nat) (c : Channel), Ready s m c → 1 ≤ s.arg0.toNat → s.arg0.toNat < 2 ^ 32 →
    0 < s.arg1.toInt →
    ∃ s1 s2, exec (.calibrate m) s = .next s1 ∧ exec (.getCalibration m) s1 = .next s2 ∧ s2.status = .ok ∧
      s2.result0 = s.arg0 ∧ s2.result1 = s.arg1

/-- R176, R177, R179, R106: the sampler's reads. That GET_VEL_PERIOD returns V_NEXT in RESULT1 is the model's choice
between two rules (log entry 17): R106 and R179 give it there, R73 says it is not shown. -/
def Obligations.SamplerReadsReturnTheirRegisters : Prop :=
  (∀ m < 16, decodeCommand (wordOf 0x11 m) = .ok (.getCalibration m) ∧
    decodeCommand (wordOf 0x12 m) = .ok (.getVelocity m) ∧
    decodeCommand (wordOf 0x14 m) = .ok (.getVelPeriod m)) ∧
  ∀ (s : State) (m : Nat) (c : Channel), Ready s m c →
    exec (.getCalibration m) s =
      .next { s with status := .ok, result0 := BitVec.ofNat 64 c.calPpr.toNat, result1 := c.calDiam } ∧
    exec (.getVelocity m) s = .next { s with status := .ok, result0 := c.vel } ∧
    exec (.getVelPeriod m) s =
      .next { s with status := .ok, result0 := BitVec.ofNat 64 c.vPeriodMs.toNat, result1 := c.vNext }

/-- R178, R204: the two period commands, and their rejection of a period of zero or of 2^32 ms and more. -/
def Obligations.PeriodCommandsSetTheirIntervals : Prop :=
  (∀ m < 16, decodeCommand (wordOf 0x13 m) = .ok (.setVelPeriod m) ∧
    decodeCommand (wordOf 0x23 m) = .ok (.setInterval m)) ∧
  ∀ (s : State) (m : Nat) (c : Channel), Ready s m c →
    (1 ≤ s.arg0.toNat → s.arg0.toNat < 2 ^ 32 →
      exec (.setVelPeriod m) s =
        .next { s with
          status := .ok
          chans := s.chans.set m
            { c with
              vPeriodMs := s.arg0.setWidth 32
              vNext := BitVec.ofNat 64 (s.now.toNat + s.arg0.toNat * 1000) } } ∧
      exec (.setInterval m) s =
        .next { s with status := .ok, chans := s.chans.set m { c with pidTMs := s.arg0.setWidth 32 } }) ∧
    (s.arg0.toNat = 0 ∨ 2 ^ 32 ≤ s.arg0.toNat →
      exec (.setVelPeriod m) s = .next { s with status := .invalidArgument } ∧
      exec (.setInterval m) s = .next { s with status := .invalidArgument })

/-! ## PIDController -/

/-- R207, R209, R210, R211, R212: when a step is due in AUTOMATIC, EV_PTICK and COMPUTE run the same PID_STEP. The
statement writes its control law out: the error, P, I (seeded or integrated and clamped), D, the clamped output, the
registers, the delivery of the truncated output and the flag of a rejected delivery. COMPUTE returns the output. -/
def Obligations.PidStepFollowsTheControlLaw : Prop :=
  (∀ m < 16, decodeWord (wordOf 0xE3 m) 0 = .ok (.evPtick m) ∧
    decodeCommand (wordOf 0x26 m) = .ok (.compute m)) ∧
  ∀ (s : State) (m : Nat) (c c1 c2 : Channel) (T e P I D out duty : Int) (d : Drive),
    Ready s m c → c.pidMode = .automatic → T = c.pidTMs.toNat →
    (s.now.toNat : Int) - c.pidLast.toNat ≥ T * 1000 →
    e = sat64 (c.pidSp.toInt - c.vel.toInt) →
    P = fxmul c.pidKp.toInt e →
    (c.pidSeed = true → I = sat64 (c.pidOut.toInt - P) ∧ D = 0) →
    (c.pidSeed = false →
      I = clamp (sat64 (c.pidInt.toInt + sat64 (tdiv (c.pidKi.toInt * e * T) (2 ^ 32 * 1000))))
          c.pidMin.toInt c.pidMax.toInt ∧
      D = sat64 (tdiv (c.pidKd.toInt * sat64 (e - c.pidPerr.toInt) * 1000) (2 ^ 32 * T))) →
    out = clamp (sat64 (sat64 (P + I) + D)) c.pidMin.toInt c.pidMax.toInt →
    duty = tdiv out (2 ^ 32) →
    c1 = { c with
      pidInt := BitVec.ofInt 64 I, pidOut := BitVec.ofInt 64 out, pidPerr := BitVec.ofInt 64 e, pidMeas := c.vel,
      pidLast := s.now, pidSeed := false } →
    d = setDutyCore m duty .pid c1 →
    (DutyAccepted duty c1 → c2 = d.chan) →
    (¬DutyAccepted duty c1 → c2 = { d.chan with flags := d.chan.flags ||| 2#3 }) →
    exec (.evPtick m) s = .next { s with chans := s.chans.set m c2, outlog := s.outlog ++ d.log } ∧
    exec (.compute m) s =
      .next { s with
        status := .ok, result0 := BitVec.ofInt 64 out, chans := s.chans.set m c2, outlog := s.outlog ++ d.log }

/-- R207, R209: when no step is due (MANUAL, or too early), COMPUTE returns the output and changes nothing else, and
the tick is not enabled, which the model shows as the fault eventNotEnabled (its choice, log entry 5). -/
def Obligations.ComputeIsIdleWhenNoStepIsDue : Prop :=
  ∀ (s : State) (m : Nat) (c : Channel), Ready s m c →
    (c.pidMode = .manual ∨ (s.now.toNat : Int) - c.pidLast.toNat < (c.pidTMs.toNat : Int) * 1000) →
    exec (.compute m) s = .next { s with status := .ok, result0 := c.pidOut } ∧
    exec (.evPtick m) s = .fault .eventNotEnabled

/-- R201, R202, R208: setpoint and gains are stored as they are given, and GET_OUTPUT reads the output and the
integral. -/
def Obligations.PidSettingsAreStoredAndRead : Prop :=
  (∀ m < 16, decodeCommand (wordOf 0x20 m) = .ok (.setTarget m) ∧
    decodeCommand (wordOf 0x21 m) = .ok (.setTunings m) ∧ decodeCommand (wordOf 0x27 m) = .ok (.getOutput m)) ∧
  ∀ (s : State) (m : Nat) (c : Channel), Ready s m c →
    exec (.setTarget m) s = .next { s with status := .ok, chans := s.chans.set m { c with pidSp := s.arg0 } } ∧
    exec (.setTunings m) s =
      .next { s with
        status := .ok, chans := s.chans.set m { c with pidKp := s.arg0, pidKi := s.arg1, pidKd := s.arg2 } } ∧
    exec (.getOutput m) s = .next { s with status := .ok, result0 := c.pidOut, result1 := c.pidInt }

/-- R203: SET_MODE. Only the switch from MANUAL to AUTOMATIC asks for a seed. -/
def Obligations.SetModeSwitchesAndSeeds : Prop :=
  (∀ m < 16, decodeCommand (wordOf 0x22 m) = .ok (.setMode m)) ∧
  ∀ (s : State) (m : Nat) (c : Channel), Ready s m c →
    (s.arg0 = 1 → c.pidMode = .manual →
      exec (.setMode m) s =
        .next { s with
          status := .ok, chans := s.chans.set m { c with pidMode := .automatic, pidSeed := true } }) ∧
    (s.arg0 = 1 → c.pidMode = .automatic → exec (.setMode m) s = .next { s with status := .ok }) ∧
    (s.arg0 = 0 →
      exec (.setMode m) s =
        .next { s with
          status := .ok, chans := s.chans.set m { c with pidMode := .manual, pidSeed := false } }) ∧
    (1 < s.arg0.toNat → exec (.setMode m) s = .next { s with status := .invalidArgument })

/-- R205: SET_LIMITS stores the limits and clamps output and integral at once, or rejects them. -/
def Obligations.SetLimitsClampsAtOnce : Prop :=
  (∀ m < 16, decodeCommand (wordOf 0x24 m) = .ok (.setLimits m)) ∧
  ∀ (s : State) (m : Nat) (c : Channel), Ready s m c →
    let lo := s.arg0.toInt
    let hi := s.arg1.toInt
    (-100 * 2 ^ 32 ≤ lo ∧ lo < hi ∧ hi ≤ 100 * 2 ^ 32 →
      exec (.setLimits m) s =
        .next { s with
          status := .ok
          chans := s.chans.set m
            { c with
              pidMin := s.arg0, pidMax := s.arg1
              pidOut := BitVec.ofInt 64 (max lo (min hi c.pidOut.toInt))
              pidInt := BitVec.ofInt 64 (max lo (min hi c.pidInt.toInt)) } }) ∧
    (¬(-100 * 2 ^ 32 ≤ lo ∧ lo < hi ∧ hi ≤ 100 * 2 ^ 32) →
      exec (.setLimits m) s = .next { s with status := .invalidArgument })

/-- R206: SET_OUTPUT sets the clamped output in MANUAL and is rejected in AUTOMATIC. -/
def Obligations.SetOutputOnlyInManual : Prop :=
  (∀ m < 16, decodeCommand (wordOf 0x25 m) = .ok (.setOutput m)) ∧
  ∀ (s : State) (m : Nat) (c : Channel), Ready s m c →
    (c.pidMode = .manual →
      exec (.setOutput m) s =
        .next { s with
          status := .ok
          chans := s.chans.set m
            { c with pidOut := BitVec.ofInt 64 (clamp s.arg0.toInt c.pidMin.toInt c.pidMax.toInt) } }) ∧
    (c.pidMode = .automatic → exec (.setOutput m) s = .next { s with status := .invalidArgument })

/-- R214: after MANUAL → AUTOMATIC any steps may follow that leave the seed (time, ticks, other channels, a new setpoint,
new gains, a new interval, a COMPUTE that is too early). When a PID step is then due, the tick and COMPUTE both run it; it
writes the output found at the switch and delivers its integer part, when `o - P` does not saturate. (`P + I` is then `o`,
which does not.) SET_LIMITS on the channel is left out between the two: it clamps the output itself (R205). -/
def Obligations.SwitchToAutomaticKeepsTheOutput : Prop :=
  ∀ (s s1 s2 : State) (m : Nat) (c c2 : Channel) (P : Int),
    Ready s m c → PidSound c → c.pidMode = .manual → s.arg0 = 1 → exec (.setMode m) s = .next s1 →
    BeforeFirstPidStep m s1 s2 → s2.chans[m]? = some c2 →
    (s2.now.toNat : Int) - c2.pidLast.toNat ≥ (c2.pidTMs.toNat : Int) * 1000 →
    P = fxmul c2.pidKp.toInt (sat64 (c2.pidSp.toInt - c2.vel.toInt)) →
    -2 ^ 63 ≤ c.pidOut.toInt - P → c.pidOut.toInt - P < 2 ^ 63 →
    ∃ (t u : State) (c' : Channel),
      exec (.evPtick m) s2 = .next t ∧ exec (.compute m) s2 = .next u ∧
      t.chans[m]? = some c' ∧ u.chans[m]? = some c' ∧ c'.pidOut = c.pidOut ∧ u.result0 = c.pidOut ∧
      t.outlog = u.outlog ∧
      s2.outlog ++ [.duty m (tdiv c.pidOut.toInt (2 ^ 32)) .pid (if c2.en = true then .ok else .disabled)] <+: t.outlog

/-- R56, R64, R213: every step keeps the limits legal and the output within them, on every channel. -/
def Obligations.StepKeepsTheOutputWithinLimits : Prop :=
  ∀ s t : State, EachChannel PidSound s → step s = .next t → EachChannel PidSound t

/-! ## MotorOutput -/

/-- R244: SET_DUTY_CORE, register by register and event by event. A rejected call changes nothing and logs its status;
an accepted one logs the call, turns the bridge (magnitude to 0, release, assert) when the direction changes, and sets
the magnitude. -/
def Obligations.SetDutyCoreTurnsInOrder : Prop :=
  ∀ (m : Nat) (v : Int) (src : Source) (c : Channel),
    (v < -100 ∨ 100 < v → setDutyCore m v src c = { chan := c, log := [.duty m v src .invalidArgument] }) ∧
    (-100 ≤ v → v ≤ 100 → c.en = false →
      setDutyCore m v src c = { chan := c, log := [.duty m v src .disabled] }) ∧
    (DutyAccepted v c →
      (let a := decide (0 ≤ v)
       let same := c.dirA = a ∧ c.dirB = !a
       setDutyCore m v src c =
        { chan := { c with dirA := a, dirB := !a, pwm := BitVec.ofNat 7 v.natAbs, lastDir := !a }
          log := [.duty m v src .ok] ++
            (if same then
              (if c.pwm.toNat = v.natAbs then [] else [.pin m .pwm v.natAbs])
            else
              (if c.pwm.toNat = 0 then [] else [.pin m .pwm 0]) ++
              (if c.dirA = true ∧ a = false then [.pin m .dirA 0] else []) ++
              (if c.dirB = true ∧ a = true then [.pin m .dirB 0] else []) ++
              (if c.dirA = false ∧ a = true then [.pin m .dirA 1] else []) ++
              (if c.dirB = false ∧ a = false then [.pin m .dirB 1] else []) ++
              (if v.natAbs = 0 then [] else [.pin m .pwm v.natAbs])) }))

/-- R243: SET_DUTY. A percent out of range is rejected and not logged, a disabled motor is logged and rejected, else the
duty is set by SET_DUTY_CORE. -/
def Obligations.SetDutySetsOrRejects : Prop :=
  (∀ m < 16, decodeCommand (wordOf 0x30 m) = .ok (.setDuty m)) ∧
  ∀ (s : State) (m : Nat) (c : Channel), Ready s m c →
    (s.arg0.toInt < -100 ∨ 100 < s.arg0.toInt →
      exec (.setDuty m) s = .next { s with status := .invalidArgument }) ∧
    (-100 ≤ s.arg0.toInt → s.arg0.toInt ≤ 100 → c.en = false →
      exec (.setDuty m) s =
        .next { s with
          status := .disabled, outlog := s.outlog ++ [.duty m s.arg0.toInt .host .disabled] }) ∧
    (DutyAccepted s.arg0.toInt c →
      exec (.setDuty m) s =
        .next { s with
          status := .ok
          chans := s.chans.set m (setDutyCore m s.arg0.toInt .host c).chan
          outlog := s.outlog ++ (setDutyCore m s.arg0.toInt .host c).log })

/-- R245, R246, R247: ENABLE, DISABLE and DRIFT: the levels they leave and the level changes they log, in order. -/
def Obligations.EnableDisableAndDriftWriteTheirPins : Prop :=
  (∀ m < 16, decodeCommand (wordOf 0x31 m) = .ok (.enable m) ∧
    decodeCommand (wordOf 0x32 m) = .ok (.disable m) ∧ decodeCommand (wordOf 0x33 m) = .ok (.drift m)) ∧
  ∀ (s : State) (m : Nat) (c : Channel), Ready s m c →
    exec (.enable m) s =
      .next { s with
        status := .ok, chans := s.chans.set m { c with en := true }
        outlog := s.outlog ++ (if c.en = true then [] else [.pin m .en 1]) } ∧
    exec (.disable m) s =
      .next { s with
        status := .ok
        chans := s.chans.set m { c with pwm := 0, dirA := false, dirB := false, en := false }
        outlog := s.outlog ++
          ((if c.pwm = 0 then [] else [.pin m .pwm 0]) ++ (if c.dirA = true then [.pin m .dirA 0] else []) ++
            (if c.dirB = true then [.pin m .dirB 0] else []) ++ (if c.en = true then [.pin m .en 0] else [])) } ∧
    exec (.drift m) s =
      .next { s with
        status := .ok
        chans := s.chans.set m { c with dirA := false, dirB := false }
        outlog := s.outlog ++
          ((if c.dirA = true then [.pin m .dirA 0] else []) ++
            (if c.dirB = true then [.pin m .dirB 0] else [])) }

/-- R248: GET_MOTOR packs the output state; the bits not named are 0 and RESULT1 is not written. -/
def Obligations.GetMotorPacksTheOutputs : Prop :=
  (∀ m < 16, decodeCommand (wordOf 0x34 m) = .ok (.getMotor m)) ∧
  ∀ (s : State) (m : Nat) (c : Channel), Ready s m c →
    exec (.getMotor m) s =
      .next { s with
        status := .ok
        result0 := BitVec.ofNat 64
          (c.en.toNat + 2 * c.dirA.toNat + 4 * c.dirB.toNat + 8 * c.lastDir.toNat + 256 * c.pwm.toNat) }

/-- R66, R67, R249: every step keeps the output stage sound on every channel: no brake pattern, no drive while disabled,
a magnitude of at most 100. -/
def Obligations.StepKeepsTheOutputStageSafe : Prop :=
  ∀ s t : State, EachChannel OutputsSound s → step s = .next t → EachChannel OutputsSound t

/-! ## ActionScheduler -/

/-- R276: DISPATCH. On each channel the due running head is popped, and then a PENDING head is dispatched with its
signed power and runs, flagged when its duty was rejected; the events stand in ascending channel order; the alarm is
armed for the earliest running deadline, or disarmed at 0; nothing else changes. -/
def Obligations.DispatchCompletesStartsAndArms : Prop :=
  ∀ s : State, ∃ parts : List (List LogEvent),
    parts.length = s.chans.length ∧ (dispatch s).chans.length = s.chans.length ∧
    dispatch s =
      { s with
        chans := (dispatch s).chans, outlog := s.outlog ++ parts.flatten
        alarmArm := (dispatch s).alarmArm, alarmAt := (dispatch s).alarmAt } ∧
    AlarmSound (dispatch s) ∧
    ∀ (m : Nat) (c c1 : Channel), s.chans[m]? = some c →
      c1 = { c with
        q := match c.q with
          | e :: es => if e.run = true ∧ e.dl.toNat ≤ s.now.toNat then es else e :: es
          | [] => [] } →
      (c1.q = [] → (dispatch s).chans[m]? = some c1 ∧ parts[m]? = some []) ∧
      (∀ e es, c1.q = e :: es →
        (e.run = true → (dispatch s).chans[m]? = some c1 ∧ parts[m]? = some []) ∧
        (e.run = false →
          let power := match e.act with
            | .idle => 0
            | .forward => (e.pwr.toNat : Int)
            | .reverse => -(e.pwr.toNat : Int)
          let d := setDutyCore m power .sched c1
          parts[m]? = some d.log ∧
          (dispatch s).chans[m]? = some { d.chan with
            flags := if -100 ≤ power ∧ power ≤ 100 ∧ c1.en = true then d.chan.flags else d.chan.flags ||| 4#3
            q := { e with dl := BitVec.ofNat 64 (s.now.toNat + e.dur.toNat), run := true } :: es }))

/-- R272, with the action codes of R69: ENQUEUE pushes a PENDING entry and runs DISPATCH, or rejects its arguments, or a
full queue. -/
def Obligations.EnqueuePushesAndDispatches : Prop :=
  (∀ m < 16, decodeCommand (wordOf 0x40 m) = .ok (.enqueue m)) ∧
  ∀ (s : State) (m : Nat) (c : Channel), Ready s m c →
    (∀ act : Action, (s.arg0, act) ∈ [(0#64, .idle), (1#64, .forward), (2#64, .reverse)] →
      s.arg1.toNat ≤ 100 → s.arg2.toNat < 2 ^ 32 →
      c.q.length < s.params.qcap →
      exec (.enqueue m) s =
        .next { dispatch { s with
          chans := s.chans.set m
            { c with
              q := c.q ++ [{ act := act, pwr := s.arg1.setWidth 7, dur := s.arg2.setWidth 32, dl := 0,
                             run := false }] } } with
          status := .ok }) ∧
    (2 < s.arg0.toNat ∨ 100 < s.arg1.toNat ∨ 2 ^ 32 ≤ s.arg2.toNat →
      exec (.enqueue m) s = .next { s with status := .invalidArgument }) ∧
    (s.arg0.toNat ≤ 2 → s.arg1.toNat ≤ 100 → s.arg2.toNat < 2 ^ 32 → s.params.qcap ≤ c.q.length →
      exec (.enqueue m) s = .next { s with status := .resourceExhausted })

/-- R282: an ENQUEUE on a full queue answers RESOURCE_EXHAUSTED and changes nothing but G.CMD and G.STATUS. -/
def Obligations.FullQueueRejectsAndKeepsItsContents : Prop :=
  ∀ (s : State) (m : Nat) (c : Channel), m < 16 → Ready s m c → c.q.length = s.params.qcap →
    s.arg0.toNat ≤ 2 → s.arg1.toNat ≤ 100 → s.arg2.toNat < 2 ^ 32 →
    commandWrite ((wordOf 0x40 m).setWidth 64) s =
      .next { s with cmd := wordOf 0x40 m, status := .resourceExhausted }

/-- R273: STOP replaces the queue by one zero action in the last direction and runs DISPATCH. -/
def Obligations.StopDrainsAndInjects : Prop :=
  (∀ m < 16, decodeCommand (wordOf 0x41 m) = .ok (.stop m)) ∧
  ∀ (s : State) (m : Nat) (c : Channel), Ready s m c →
    exec (.stop m) s =
      .next { dispatch { s with
        chans := s.chans.set m
          { c with
            q := [{ act := if c.lastDir = true then .reverse else .forward, pwr := 0, dur := 0, dl := 0,
                    run := false }] } } with
        status := .ok }

/-- R278: EV_ALARM runs DISPATCH when the alarm is armed and due and the block not halted, and is not enabled
otherwise; that this is the fault eventNotEnabled is the model's choice (log entry 5). -/
def Obligations.AlarmFiresOnlyWhenDue : Prop :=
  decodeWord 0xE4000000#32 0 = .ok .evAlarm ∧
  ∀ s : State,
    (s.alarmArm = true → s.alarmAt.toNat ≤ s.now.toNat → s.cfgHalt = false →
      exec .evAlarm s = .next (dispatch s)) ∧
    (s.alarmArm = false ∨ s.now.toNat < s.alarmAt.toNat ∨ s.cfgHalt = true →
      exec .evAlarm s = .fault .eventNotEnabled)

/-- R274, R275, R279, with the action codes of R69: the scheduler's reads, with their packed results written as sums. -/
def Obligations.QueueAndAlarmReadsPackTheirResults : Prop :=
  ((∀ m < 16, decodeCommand (wordOf 0x42 m) = .ok (.queueStatus m) ∧
      decodeCommand (wordOf 0x43 m) = .ok (.queuePeek m)) ∧ decodeCommand 0x44000000#32 = .ok .getAlarm) ∧
  ∀ s : State, s.cfgHalt = false →
    exec .getAlarm s =
      .next { s with status := .ok, result0 := BitVec.ofNat 64 s.alarmArm.toNat, result1 := s.alarmAt } ∧
    ∀ (m : Nat) (c : Channel), s.chans[m]? = some c → c.q.length < 256 →
      (∀ e es, c.q = e :: es → e.run = true →
        exec (.queueStatus m) s =
          .next { s with status := .ok, result0 := BitVec.ofNat 64 (c.q.length + 256), result1 := e.dl }) ∧
      ((∀ e es, c.q = e :: es → e.run = false) →
        exec (.queueStatus m) s =
          .next { s with status := .ok, result0 := BitVec.ofNat 64 c.q.length, result1 := 0 }) ∧
      (∀ e, c.q[s.arg0.toNat]? = some e →
        exec (.queuePeek m) s =
          .next { s with
            status := .ok
            result0 := BitVec.ofNat 64
              ((match e.act with | .idle => 0 | .forward => 1 | .reverse => 2) + 2 ^ 8 * e.pwr.toNat +
                2 ^ 16 * e.run.toNat + 2 ^ 32 * e.dur.toNat)
            result1 := if e.run = true then e.dl else 0 }) ∧
      (c.q.length ≤ s.arg0.toNat → exec (.queuePeek m) s = .next { s with status := .invalidArgument })

/-- R280: every step keeps the single alarm sound: armed exactly when some head runs, for the earliest deadline. -/
def Obligations.StepKeepsTheSingleAlarm : Prop :=
  ∀ s t : State, AlarmSound s → step s = .next t → AlarmSound t

/-- R69, R70, R281: every step keeps each queue within its capacity, each percent within 100, and only the head
running. The premise that the halt is sound gives STOP the room of one entry. -/
def Obligations.StepKeepsTheQueuesSound : Prop :=
  ∀ s t : State, HaltSound s → EachChannel (QueueSound s.params.qcap) s → step s = .next t →
    EachChannel (QueueSound t.params.qcap) t

/-! ## Time, flags, system -/

/-- R310: EV_TIME adds its advance to the time base up to TIME_MAX, halted or not, and is not enabled otherwise; that
this is the fault eventNotEnabled is the model's choice (log entry 5). -/
def Obligations.TimeAdvancesWithinItsBound : Prop :=
  decodeWord 0xE5000000#32 100000 = .ok (.evTime 100000) ∧
  ∀ (s : State) (d : Nat),
    (1 ≤ d → s.now.toNat + d ≤ 2 ^ 63 - 1 →
      exec (.evTime d) s = .next { s with now := s.now + BitVec.ofNat 64 d }) ∧
    (d = 0 ∨ 2 ^ 63 - 1 < s.now.toNat + d → exec (.evTime d) s = .fault .eventNotEnabled)

/-- R311, R312, R313, R314: NOP, the reads of time and flags, and the clearing of flags by a mask below 8. -/
def Obligations.SystemCommandsReadTimeAndClearFlags : Prop :=
  (decodeCommand 0x00000000#32 = .ok .nop ∧ decodeCommand 0x50000000#32 = .ok .getTime ∧
    ∀ m < 16, decodeCommand (wordOf 0x51 m) = .ok (.getFlags m) ∧
      decodeCommand (wordOf 0x52 m) = .ok (.clearFlags m)) ∧
  ∀ s : State, s.cfgHalt = false →
    exec .nop s = .next { s with status := .ok } ∧
    exec .getTime s = .next { s with status := .ok, result0 := s.now } ∧
    ∀ (m : Nat) (c : Channel), s.chans[m]? = some c →
      exec (.getFlags m) s = .next { s with status := .ok, result0 := BitVec.ofNat 64 c.flags.toNat } ∧
      (∀ mask : BitVec 3, s.arg0 = mask.setWidth 64 →
        exec (.clearFlags m) s =
          .next { s with
            status := .ok, chans := s.chans.set m { c with flags := c.flags &&& ~~~mask } }) ∧
      (8 ≤ s.arg0.toNat → exec (.clearFlags m) s = .next { s with status := .invalidArgument })

/-- R38, R49, R60, R181: every step keeps time within TIME_MAX, the previous times not after now, the periods positive
and the sampler's due time at least 1000 µs after its previous time. -/
def Obligations.StepKeepsTheTimesSound : Prop :=
  ∀ s t : State, TimeSound s → step s = .next t → TimeSound t

/-- R310, R396: an edge or a tick that has run is not enabled again at the same time, on a channel whose periods are
positive and before the end of time. -/
def Obligations.InternalEventsDisableThemselves : Prop :=
  ∀ (s t : State) (m : Nat), TimeSound s →
    (exec (.evEdge m) s = .next t ∨ exec (.evVtick m) s = .next t ∨ exec (.evPtick m) s = .next t) →
    t.now = s.now ∧
      (exec (.evEdge m) s = .next t → .evEdge m ∉ enabledEvents t) ∧
      (exec (.evVtick m) s = .next t → .evVtick m ∉ enabledEvents t) ∧
      (exec (.evPtick m) s = .next t → .evPtick m ∉ enabledEvents t)

/-! ## Reset -/

/-- R370, R372: EV_RESET gives every register its reset value, keeps the phase levels and the log with RESET appended,
and sets the halt when the configuration is invalid. The interface fields and the parameters are not registers. A period
parameter that does not fit its register is cut to it (the model's choice, log entry 9). -/
def Obligations.ResetSetsEveryRegister : Prop :=
  decodeWord 0xE6000000#32 0 = .ok .evReset ∧
  ∀ s : State, ∃ halt : Bool,
    (halt = false ↔
      (1 ≤ s.chans.length ∧ s.chans.length ≤ 16) ∧ (1 ≤ s.params.qcap ∧ s.params.qcap ≤ 255) ∧
      (∀ c ∈ s.chans, 1 ≤ c.par.vPeriod0Ms ∧ c.par.vPeriod0Ms < 2 ^ 32 ∧
        1 ≤ c.par.pidT0Ms ∧ c.par.pidT0Ms < 2 ^ 32) ∧
      s.params.pinsValid = true) ∧
    exec .evReset s =
      .next {
        cmd := 0, arg0 := 0, arg1 := 0, arg2 := 0, status := .ok, result0 := 0, result1 := 0, cfgHalt := halt,
        now := 0, alarmArm := false, alarmAt := 0,
        chans := s.chans.map fun c => {
          par := c.par, qa := c.qa, qb := c.qb, edLast := quad c.qa c.qb, edPos := 0, edPend := false,
          diagCnt := 0, calPpr := 0, calDiam := 0, calDpp := 0,
          vPeriodMs := BitVec.ofNat 32 c.par.vPeriod0Ms, vNext := BitVec.ofNat 64 (c.par.vPeriod0Ms * 1000),
          vPrevPos := 0, vPrevT := 0, vel := 0, pidSp := 0, pidMeas := 0, pidOut := 0, pidKp := c.par.kp0,
          pidKi := c.par.ki0, pidKd := c.par.kd0, pidInt := 0, pidPerr := 0,
          pidTMs := BitVec.ofNat 32 c.par.pidT0Ms, pidMode := .manual, pidSeed := false, pidLast := 0,
          pidMin := 0, pidMax := BitVec.ofInt 64 (100 * 2 ^ 32), en := false, dirA := false, dirB := false,
          pwm := 0, lastDir := false, q := [], flags := 0 },
        outlog := s.outlog ++ [.reset], params := s.params, agenda := s.agenda, hostData := s.hostData,
        choices := s.choices }

/-- R371: the power-on state is what EV_RESET gives from any state at all, with the log cleared and nothing of the
model's interface under way; `State.reset` is that state for the default parameters and levels 0 (log entries 3, 4). -/
def Obligations.PowerOnIsResetFromAnyState : Prop :=
  (∀ s : State,
    exec .evReset { s with outlog := [], agenda := [], hostData := none, choices := 0 } =
      .next (State.powerOn s.params (s.chans.map fun c => (c.par, c.qa, c.qb)))) ∧
  State.reset =
    State.powerOn Config.defaultParams (List.replicate Config.defaultNMotors (Config.defaultChannel, false, false))

/-- R371, R373: at power-on, with any parameters and any levels, every invariant holds. -/
def Obligations.PowerOnIsSound : Prop :=
  ∀ (p : Params) (cs : List (ChannelParams × Bool × Bool)),
    let s := State.powerOn p cs
    s.outlog = [.reset] ∧ HaltSound s ∧ HaltQuiet s ∧ AlarmSound s ∧ TimeSound s ∧
      EachChannel OutputsSound s ∧ EachChannel PidSound s ∧ EachChannel (QueueSound p.qcap) s ∧
      EachChannel DecoderSound s

/-- R336, R372: every step keeps the halt equal to the invalidity of the configuration, which no step changes, and a
halted block's outputs at their reset values. -/
def Obligations.StepKeepsTheHaltAndItsQuiet : Prop :=
  ∀ s t : State, HaltSound s → HaltQuiet s → step s = .next t → HaltSound t ∧ HaltQuiet t ∧ t.params = s.params

/-! ## Whole-machine rules -/

/-- R35 to R40, R72, R75, R106: which commands and events may write the global registers. EV_RESET apart, no meaning
writes G.CMD, an ARG register or the halt; events do not write STATUS or a RESULT, a rejected command no RESULT, and a
command without a RESULT0 or a RESULT1 in R106 not that register; only EV_TIME writes the time and only DISPATCH the alarm;
only SET_DUTY_CORE (inside SET_DUTY, PID_STEP and DISPATCH), ENABLE, DISABLE and DRIFT append to the log. -/
def Obligations.OnlyListedTransitionsWriteGlobals : Prop :=
  ∀ (i : Instr) (s t : State), exec i s = .next t → i ≠ .evReset →
    (t.cmd = s.cmd ∧ t.arg0 = s.arg0 ∧ t.arg1 = s.arg1 ∧ t.arg2 = s.arg2 ∧ t.cfgHalt = s.cfgHalt ∧
      t.params = s.params ∧ t.agenda = s.agenda ∧ t.hostData = s.hostData ∧ t.choices = s.choices ∧
      t.chans.length = s.chans.length) ∧
    (i.isEvent = true → t.status = s.status ∧ t.result0 = s.result0 ∧ t.result1 = s.result1) ∧
    (t.status ≠ .ok → i.isEvent = false → t.result0 = s.result0 ∧ t.result1 = s.result1) ∧
    ((∀ d, i ≠ .evTime d) → t.now = s.now) ∧
    (¬Sched i → t.alarmArm = s.alarmArm ∧ t.alarmAt = s.alarmAt) ∧
    (t.result0 = s.result0 ∨ i = .getAlarm ∨ i = .getTime ∨
      ∃ m, i ∈ [.edGetcount m, .getPosition m, .edGetdiag m, .getCalibration m, .getVelocity m, .getVelPeriod m,
        .compute m, .getOutput m, .getMotor m, .queueStatus m, .queuePeek m, .getFlags m]) ∧
    (t.result1 = s.result1 ∨ i = .getAlarm ∨
      ∃ m, i ∈ [.getPosition m, .edGetdiag m, .getCalibration m, .getVelPeriod m, .getOutput m, .queueStatus m,
        .queuePeek m]) ∧
    s.outlog <+: t.outlog ∧
    (t.outlog = s.outlog ∨ ∃ m, DutyRun m i ∨ i = .enable m ∨ i = .disable m ∨ i = .drift m)

/-- R75: which commands and events may write each register of a channel: a register that changed on channel `k` was
changed by one of the transitions the table lists for it. EV_RESET, which is listed for all but the phase levels, is
left to the statement about reset. -/
def Obligations.OnlyListedTransitionsWriteAChannel : Prop :=
  ∀ (i : Instr) (s t : State) (k : Nat) (c : Channel), exec i s = .next t → i ≠ .evReset →
    s.chans[k]? = some c → ∃ c', t.chans[k]? = some c' ∧ c'.par = c.par ∧
      (c'.qa = c.qa ∧ c'.qb = c.qb ∨ ∃ a b, i = .evPhase k a b) ∧
      (c'.edPend = c.edPend ∨ (∃ a b, i = .evPhase k a b) ∨ i = .evEdge k) ∧
      (c'.edLast = c.edLast ∧ c'.edPos = c.edPos ∧ c'.diagCnt = c.diagCnt ∨ i = .evEdge k ∨ i = .edReset k) ∧
      (c'.calPpr = c.calPpr ∧ c'.calDiam = c.calDiam ∧ c'.calDpp = c.calDpp ∨ i = .calibrate k) ∧
      (c'.vPeriodMs = c.vPeriodMs ∨ i = .setVelPeriod k) ∧
      (c'.vNext = c.vNext ∨ i = .evVtick k ∨ i = .setVelPeriod k) ∧
      (c'.vPrevPos = c.vPrevPos ∨ i = .evVtick k ∨ i = .edReset k) ∧
      (c'.vPrevT = c.vPrevT ∧ c'.vel = c.vel ∨ i = .evVtick k) ∧
      (c'.pidSp = c.pidSp ∨ i = .setTarget k) ∧
      (c'.pidKp = c.pidKp ∧ c'.pidKi = c.pidKi ∧ c'.pidKd = c.pidKd ∨ i = .setTunings k) ∧
      (c'.pidTMs = c.pidTMs ∨ i = .setInterval k) ∧
      (c'.pidMode = c.pidMode ∨ i = .setMode k) ∧
      (c'.pidSeed = c.pidSeed ∨ i = .setMode k ∨ PidRun k i) ∧
      (c'.pidMin = c.pidMin ∧ c'.pidMax = c.pidMax ∨ i = .setLimits k) ∧
      (c'.pidOut = c.pidOut ∨ PidRun k i ∨ i = .setOutput k ∨ i = .setLimits k) ∧
      (c'.pidInt = c.pidInt ∨ PidRun k i ∨ i = .setLimits k) ∧
      (c'.pidMeas = c.pidMeas ∧ c'.pidPerr = c.pidPerr ∧ c'.pidLast = c.pidLast ∨ PidRun k i) ∧
      (c'.en = c.en ∨ i = .enable k ∨ i = .disable k) ∧
      (c'.dirA = c.dirA ∧ c'.dirB = c.dirB ∨ DutyRun k i ∨ i = .disable k ∨ i = .drift k) ∧
      (c'.pwm = c.pwm ∨ DutyRun k i ∨ i = .disable k) ∧
      (c'.lastDir = c.lastDir ∨ DutyRun k i) ∧
      (c'.q = c.q ∨ Sched i) ∧
      (c'.flags = c.flags ∨ i = .evVtick k ∨ PidRun k i ∨ Sched i ∨ i = .clearFlags k)

/-- R284, R349: a command or event for one channel that does not run DISPATCH leaves every other channel as it was. -/
def Obligations.ChannelsAreIndependent : Prop :=
  ∀ (i : Instr) (s t : State) (m k : Nat), exec i s = .next t → i.channel = some m → ¬Sched i → k ≠ m →
    t.chans[k]? = s.chans[k]?

/-- R72, R75: the output log only grows, at its end, in every step; EV_RESET does not clear it. -/
def Obligations.OutputLogOnlyGrows : Prop :=
  ∀ s t : State, step s = .next t → s.outlog <+: t.outlog
end

