-- ==== Sys2Proof/Laws/State.lean ====
section
/-! SUPPORT. One lemma per field for each named update of the state and of a channel, all true by unfolding. -/

namespace Sys2Proof.Machine

/-! ### State.setStatus -/

@[simp] theorem State.setStatus_cmd (st : Status) (s : State) : (s.setStatus st).cmd = s.cmd := rfl
@[simp] theorem State.setStatus_arg0 (st : Status) (s : State) : (s.setStatus st).arg0 = s.arg0 := rfl
@[simp] theorem State.setStatus_arg1 (st : Status) (s : State) : (s.setStatus st).arg1 = s.arg1 := rfl
@[simp] theorem State.setStatus_arg2 (st : Status) (s : State) : (s.setStatus st).arg2 = s.arg2 := rfl
@[simp] theorem State.setStatus_status (st : Status) (s : State) : (s.setStatus st).status = st := rfl
@[simp] theorem State.setStatus_result0 (st : Status) (s : State) : (s.setStatus st).result0 = s.result0 := rfl
@[simp] theorem State.setStatus_result1 (st : Status) (s : State) : (s.setStatus st).result1 = s.result1 := rfl
@[simp] theorem State.setStatus_cfgHalt (st : Status) (s : State) : (s.setStatus st).cfgHalt = s.cfgHalt := rfl
@[simp] theorem State.setStatus_now (st : Status) (s : State) : (s.setStatus st).now = s.now := rfl
@[simp] theorem State.setStatus_alarmArm (st : Status) (s : State) : (s.setStatus st).alarmArm = s.alarmArm := rfl
@[simp] theorem State.setStatus_alarmAt (st : Status) (s : State) : (s.setStatus st).alarmAt = s.alarmAt := rfl
@[simp] theorem State.setStatus_chans (st : Status) (s : State) : (s.setStatus st).chans = s.chans := rfl
@[simp] theorem State.setStatus_outlog (st : Status) (s : State) : (s.setStatus st).outlog = s.outlog := rfl
@[simp] theorem State.setStatus_params (st : Status) (s : State) : (s.setStatus st).params = s.params := rfl
@[simp] theorem State.setStatus_agenda (st : Status) (s : State) : (s.setStatus st).agenda = s.agenda := rfl
@[simp] theorem State.setStatus_hostData (st : Status) (s : State) : (s.setStatus st).hostData = s.hostData := rfl
@[simp] theorem State.setStatus_choices (st : Status) (s : State) : (s.setStatus st).choices = s.choices := rfl

/-! ### State.setResult0 -/

@[simp] theorem State.setResult0_cmd (v : U64) (s : State) : (s.setResult0 v).cmd = s.cmd := rfl
@[simp] theorem State.setResult0_arg0 (v : U64) (s : State) : (s.setResult0 v).arg0 = s.arg0 := rfl
@[simp] theorem State.setResult0_arg1 (v : U64) (s : State) : (s.setResult0 v).arg1 = s.arg1 := rfl
@[simp] theorem State.setResult0_arg2 (v : U64) (s : State) : (s.setResult0 v).arg2 = s.arg2 := rfl
@[simp] theorem State.setResult0_status (v : U64) (s : State) : (s.setResult0 v).status = s.status := rfl
@[simp] theorem State.setResult0_result0 (v : U64) (s : State) : (s.setResult0 v).result0 = v := rfl
@[simp] theorem State.setResult0_result1 (v : U64) (s : State) : (s.setResult0 v).result1 = s.result1 := rfl
@[simp] theorem State.setResult0_cfgHalt (v : U64) (s : State) : (s.setResult0 v).cfgHalt = s.cfgHalt := rfl
@[simp] theorem State.setResult0_now (v : U64) (s : State) : (s.setResult0 v).now = s.now := rfl
@[simp] theorem State.setResult0_alarmArm (v : U64) (s : State) : (s.setResult0 v).alarmArm = s.alarmArm := rfl
@[simp] theorem State.setResult0_alarmAt (v : U64) (s : State) : (s.setResult0 v).alarmAt = s.alarmAt := rfl
@[simp] theorem State.setResult0_chans (v : U64) (s : State) : (s.setResult0 v).chans = s.chans := rfl
@[simp] theorem State.setResult0_outlog (v : U64) (s : State) : (s.setResult0 v).outlog = s.outlog := rfl
@[simp] theorem State.setResult0_params (v : U64) (s : State) : (s.setResult0 v).params = s.params := rfl
@[simp] theorem State.setResult0_agenda (v : U64) (s : State) : (s.setResult0 v).agenda = s.agenda := rfl
@[simp] theorem State.setResult0_hostData (v : U64) (s : State) : (s.setResult0 v).hostData = s.hostData := rfl
@[simp] theorem State.setResult0_choices (v : U64) (s : State) : (s.setResult0 v).choices = s.choices := rfl

/-! ### State.setResult1 -/

@[simp] theorem State.setResult1_cmd (v : U64) (s : State) : (s.setResult1 v).cmd = s.cmd := rfl
@[simp] theorem State.setResult1_arg0 (v : U64) (s : State) : (s.setResult1 v).arg0 = s.arg0 := rfl
@[simp] theorem State.setResult1_arg1 (v : U64) (s : State) : (s.setResult1 v).arg1 = s.arg1 := rfl
@[simp] theorem State.setResult1_arg2 (v : U64) (s : State) : (s.setResult1 v).arg2 = s.arg2 := rfl
@[simp] theorem State.setResult1_status (v : U64) (s : State) : (s.setResult1 v).status = s.status := rfl
@[simp] theorem State.setResult1_result0 (v : U64) (s : State) : (s.setResult1 v).result0 = s.result0 := rfl
@[simp] theorem State.setResult1_result1 (v : U64) (s : State) : (s.setResult1 v).result1 = v := rfl
@[simp] theorem State.setResult1_cfgHalt (v : U64) (s : State) : (s.setResult1 v).cfgHalt = s.cfgHalt := rfl
@[simp] theorem State.setResult1_now (v : U64) (s : State) : (s.setResult1 v).now = s.now := rfl
@[simp] theorem State.setResult1_alarmArm (v : U64) (s : State) : (s.setResult1 v).alarmArm = s.alarmArm := rfl
@[simp] theorem State.setResult1_alarmAt (v : U64) (s : State) : (s.setResult1 v).alarmAt = s.alarmAt := rfl
@[simp] theorem State.setResult1_chans (v : U64) (s : State) : (s.setResult1 v).chans = s.chans := rfl
@[simp] theorem State.setResult1_outlog (v : U64) (s : State) : (s.setResult1 v).outlog = s.outlog := rfl
@[simp] theorem State.setResult1_params (v : U64) (s : State) : (s.setResult1 v).params = s.params := rfl
@[simp] theorem State.setResult1_agenda (v : U64) (s : State) : (s.setResult1 v).agenda = s.agenda := rfl
@[simp] theorem State.setResult1_hostData (v : U64) (s : State) : (s.setResult1 v).hostData = s.hostData := rfl
@[simp] theorem State.setResult1_choices (v : U64) (s : State) : (s.setResult1 v).choices = s.choices := rfl

/-! ### State.setChan -/

@[simp] theorem State.setChan_cmd (m : Nat) (c : Channel) (s : State) : (s.setChan m c).cmd = s.cmd := rfl
@[simp] theorem State.setChan_arg0 (m : Nat) (c : Channel) (s : State) : (s.setChan m c).arg0 = s.arg0 := rfl
@[simp] theorem State.setChan_arg1 (m : Nat) (c : Channel) (s : State) : (s.setChan m c).arg1 = s.arg1 := rfl
@[simp] theorem State.setChan_arg2 (m : Nat) (c : Channel) (s : State) : (s.setChan m c).arg2 = s.arg2 := rfl
@[simp] theorem State.setChan_status (m : Nat) (c : Channel) (s : State) : (s.setChan m c).status = s.status := rfl
@[simp] theorem State.setChan_result0 (m : Nat) (c : Channel) (s : State) : (s.setChan m c).result0 = s.result0 := rfl
@[simp] theorem State.setChan_result1 (m : Nat) (c : Channel) (s : State) : (s.setChan m c).result1 = s.result1 := rfl
@[simp] theorem State.setChan_cfgHalt (m : Nat) (c : Channel) (s : State) : (s.setChan m c).cfgHalt = s.cfgHalt := rfl
@[simp] theorem State.setChan_now (m : Nat) (c : Channel) (s : State) : (s.setChan m c).now = s.now := rfl
@[simp] theorem State.setChan_alarmArm (m : Nat) (c : Channel) (s : State) : (s.setChan m c).alarmArm = s.alarmArm := rfl
@[simp] theorem State.setChan_alarmAt (m : Nat) (c : Channel) (s : State) : (s.setChan m c).alarmAt = s.alarmAt := rfl
@[simp] theorem State.setChan_chans (m : Nat) (c : Channel) (s : State) : (s.setChan m c).chans = s.chans.set m c := rfl
@[simp] theorem State.setChan_outlog (m : Nat) (c : Channel) (s : State) : (s.setChan m c).outlog = s.outlog := rfl
@[simp] theorem State.setChan_params (m : Nat) (c : Channel) (s : State) : (s.setChan m c).params = s.params := rfl
@[simp] theorem State.setChan_agenda (m : Nat) (c : Channel) (s : State) : (s.setChan m c).agenda = s.agenda := rfl
@[simp] theorem State.setChan_hostData (m : Nat) (c : Channel) (s : State) : (s.setChan m c).hostData = s.hostData := rfl
@[simp] theorem State.setChan_choices (m : Nat) (c : Channel) (s : State) : (s.setChan m c).choices = s.choices := rfl

/-! ### State.emit -/

@[simp] theorem State.emit_cmd (es : List LogEvent) (s : State) : (s.emit es).cmd = s.cmd := rfl
@[simp] theorem State.emit_arg0 (es : List LogEvent) (s : State) : (s.emit es).arg0 = s.arg0 := rfl
@[simp] theorem State.emit_arg1 (es : List LogEvent) (s : State) : (s.emit es).arg1 = s.arg1 := rfl
@[simp] theorem State.emit_arg2 (es : List LogEvent) (s : State) : (s.emit es).arg2 = s.arg2 := rfl
@[simp] theorem State.emit_status (es : List LogEvent) (s : State) : (s.emit es).status = s.status := rfl
@[simp] theorem State.emit_result0 (es : List LogEvent) (s : State) : (s.emit es).result0 = s.result0 := rfl
@[simp] theorem State.emit_result1 (es : List LogEvent) (s : State) : (s.emit es).result1 = s.result1 := rfl
@[simp] theorem State.emit_cfgHalt (es : List LogEvent) (s : State) : (s.emit es).cfgHalt = s.cfgHalt := rfl
@[simp] theorem State.emit_now (es : List LogEvent) (s : State) : (s.emit es).now = s.now := rfl
@[simp] theorem State.emit_alarmArm (es : List LogEvent) (s : State) : (s.emit es).alarmArm = s.alarmArm := rfl
@[simp] theorem State.emit_alarmAt (es : List LogEvent) (s : State) : (s.emit es).alarmAt = s.alarmAt := rfl
@[simp] theorem State.emit_chans (es : List LogEvent) (s : State) : (s.emit es).chans = s.chans := rfl
@[simp] theorem State.emit_outlog (es : List LogEvent) (s : State) : (s.emit es).outlog = s.outlog ++ es := rfl
@[simp] theorem State.emit_params (es : List LogEvent) (s : State) : (s.emit es).params = s.params := rfl
@[simp] theorem State.emit_agenda (es : List LogEvent) (s : State) : (s.emit es).agenda = s.agenda := rfl
@[simp] theorem State.emit_hostData (es : List LogEvent) (s : State) : (s.emit es).hostData = s.hostData := rfl
@[simp] theorem State.emit_choices (es : List LogEvent) (s : State) : (s.emit es).choices = s.choices := rfl

/-! ### State.commit -/

@[simp] theorem State.commit_cmd (m : Nat) (d : Drive) (s : State) : (s.commit m d).cmd = s.cmd := rfl
@[simp] theorem State.commit_arg0 (m : Nat) (d : Drive) (s : State) : (s.commit m d).arg0 = s.arg0 := rfl
@[simp] theorem State.commit_arg1 (m : Nat) (d : Drive) (s : State) : (s.commit m d).arg1 = s.arg1 := rfl
@[simp] theorem State.commit_arg2 (m : Nat) (d : Drive) (s : State) : (s.commit m d).arg2 = s.arg2 := rfl
@[simp] theorem State.commit_status (m : Nat) (d : Drive) (s : State) : (s.commit m d).status = s.status := rfl
@[simp] theorem State.commit_result0 (m : Nat) (d : Drive) (s : State) : (s.commit m d).result0 = s.result0 := rfl
@[simp] theorem State.commit_result1 (m : Nat) (d : Drive) (s : State) : (s.commit m d).result1 = s.result1 := rfl
@[simp] theorem State.commit_cfgHalt (m : Nat) (d : Drive) (s : State) : (s.commit m d).cfgHalt = s.cfgHalt := rfl
@[simp] theorem State.commit_now (m : Nat) (d : Drive) (s : State) : (s.commit m d).now = s.now := rfl
@[simp] theorem State.commit_alarmArm (m : Nat) (d : Drive) (s : State) : (s.commit m d).alarmArm = s.alarmArm := rfl
@[simp] theorem State.commit_alarmAt (m : Nat) (d : Drive) (s : State) : (s.commit m d).alarmAt = s.alarmAt := rfl
@[simp] theorem State.commit_chans (m : Nat) (d : Drive) (s : State) : (s.commit m d).chans = s.chans.set m d.chan := rfl
@[simp] theorem State.commit_outlog (m : Nat) (d : Drive) (s : State) : (s.commit m d).outlog = s.outlog ++ d.log := rfl
@[simp] theorem State.commit_params (m : Nat) (d : Drive) (s : State) : (s.commit m d).params = s.params := rfl
@[simp] theorem State.commit_agenda (m : Nat) (d : Drive) (s : State) : (s.commit m d).agenda = s.agenda := rfl
@[simp] theorem State.commit_hostData (m : Nat) (d : Drive) (s : State) : (s.commit m d).hostData = s.hostData := rfl
@[simp] theorem State.commit_choices (m : Nat) (d : Drive) (s : State) : (s.commit m d).choices = s.choices := rfl

/-! ### Channel.setFlag -/

@[simp] theorem Channel.setFlag_par (f : BitVec 3) (c : Channel) : (c.setFlag f).par = c.par := rfl
@[simp] theorem Channel.setFlag_qa (f : BitVec 3) (c : Channel) : (c.setFlag f).qa = c.qa := rfl
@[simp] theorem Channel.setFlag_qb (f : BitVec 3) (c : Channel) : (c.setFlag f).qb = c.qb := rfl
@[simp] theorem Channel.setFlag_edLast (f : BitVec 3) (c : Channel) : (c.setFlag f).edLast = c.edLast := rfl
@[simp] theorem Channel.setFlag_edPos (f : BitVec 3) (c : Channel) : (c.setFlag f).edPos = c.edPos := rfl
@[simp] theorem Channel.setFlag_edPend (f : BitVec 3) (c : Channel) : (c.setFlag f).edPend = c.edPend := rfl
@[simp] theorem Channel.setFlag_diagCnt (f : BitVec 3) (c : Channel) : (c.setFlag f).diagCnt = c.diagCnt := rfl
@[simp] theorem Channel.setFlag_calPpr (f : BitVec 3) (c : Channel) : (c.setFlag f).calPpr = c.calPpr := rfl
@[simp] theorem Channel.setFlag_calDiam (f : BitVec 3) (c : Channel) : (c.setFlag f).calDiam = c.calDiam := rfl
@[simp] theorem Channel.setFlag_calDpp (f : BitVec 3) (c : Channel) : (c.setFlag f).calDpp = c.calDpp := rfl
@[simp] theorem Channel.setFlag_vPeriodMs (f : BitVec 3) (c : Channel) : (c.setFlag f).vPeriodMs = c.vPeriodMs := rfl
@[simp] theorem Channel.setFlag_vNext (f : BitVec 3) (c : Channel) : (c.setFlag f).vNext = c.vNext := rfl
@[simp] theorem Channel.setFlag_vPrevPos (f : BitVec 3) (c : Channel) : (c.setFlag f).vPrevPos = c.vPrevPos := rfl
@[simp] theorem Channel.setFlag_vPrevT (f : BitVec 3) (c : Channel) : (c.setFlag f).vPrevT = c.vPrevT := rfl
@[simp] theorem Channel.setFlag_vel (f : BitVec 3) (c : Channel) : (c.setFlag f).vel = c.vel := rfl
@[simp] theorem Channel.setFlag_pidSp (f : BitVec 3) (c : Channel) : (c.setFlag f).pidSp = c.pidSp := rfl
@[simp] theorem Channel.setFlag_pidMeas (f : BitVec 3) (c : Channel) : (c.setFlag f).pidMeas = c.pidMeas := rfl
@[simp] theorem Channel.setFlag_pidOut (f : BitVec 3) (c : Channel) : (c.setFlag f).pidOut = c.pidOut := rfl
@[simp] theorem Channel.setFlag_pidKp (f : BitVec 3) (c : Channel) : (c.setFlag f).pidKp = c.pidKp := rfl
@[simp] theorem Channel.setFlag_pidKi (f : BitVec 3) (c : Channel) : (c.setFlag f).pidKi = c.pidKi := rfl
@[simp] theorem Channel.setFlag_pidKd (f : BitVec 3) (c : Channel) : (c.setFlag f).pidKd = c.pidKd := rfl
@[simp] theorem Channel.setFlag_pidInt (f : BitVec 3) (c : Channel) : (c.setFlag f).pidInt = c.pidInt := rfl
@[simp] theorem Channel.setFlag_pidPerr (f : BitVec 3) (c : Channel) : (c.setFlag f).pidPerr = c.pidPerr := rfl
@[simp] theorem Channel.setFlag_pidTMs (f : BitVec 3) (c : Channel) : (c.setFlag f).pidTMs = c.pidTMs := rfl
@[simp] theorem Channel.setFlag_pidMode (f : BitVec 3) (c : Channel) : (c.setFlag f).pidMode = c.pidMode := rfl
@[simp] theorem Channel.setFlag_pidSeed (f : BitVec 3) (c : Channel) : (c.setFlag f).pidSeed = c.pidSeed := rfl
@[simp] theorem Channel.setFlag_pidLast (f : BitVec 3) (c : Channel) : (c.setFlag f).pidLast = c.pidLast := rfl
@[simp] theorem Channel.setFlag_pidMin (f : BitVec 3) (c : Channel) : (c.setFlag f).pidMin = c.pidMin := rfl
@[simp] theorem Channel.setFlag_pidMax (f : BitVec 3) (c : Channel) : (c.setFlag f).pidMax = c.pidMax := rfl
@[simp] theorem Channel.setFlag_en (f : BitVec 3) (c : Channel) : (c.setFlag f).en = c.en := rfl
@[simp] theorem Channel.setFlag_dirA (f : BitVec 3) (c : Channel) : (c.setFlag f).dirA = c.dirA := rfl
@[simp] theorem Channel.setFlag_dirB (f : BitVec 3) (c : Channel) : (c.setFlag f).dirB = c.dirB := rfl
@[simp] theorem Channel.setFlag_pwm (f : BitVec 3) (c : Channel) : (c.setFlag f).pwm = c.pwm := rfl
@[simp] theorem Channel.setFlag_lastDir (f : BitVec 3) (c : Channel) : (c.setFlag f).lastDir = c.lastDir := rfl
@[simp] theorem Channel.setFlag_q (f : BitVec 3) (c : Channel) : (c.setFlag f).q = c.q := rfl
@[simp] theorem Channel.setFlag_flags (f : BitVec 3) (c : Channel) : (c.setFlag f).flags = c.flags ||| f := rfl

/-! ### Channel.clearFlags -/

@[simp] theorem Channel.clearFlags_par (k : BitVec 3) (c : Channel) : (c.clearFlags k).par = c.par := rfl
@[simp] theorem Channel.clearFlags_qa (k : BitVec 3) (c : Channel) : (c.clearFlags k).qa = c.qa := rfl
@[simp] theorem Channel.clearFlags_qb (k : BitVec 3) (c : Channel) : (c.clearFlags k).qb = c.qb := rfl
@[simp] theorem Channel.clearFlags_edLast (k : BitVec 3) (c : Channel) : (c.clearFlags k).edLast = c.edLast := rfl
@[simp] theorem Channel.clearFlags_edPos (k : BitVec 3) (c : Channel) : (c.clearFlags k).edPos = c.edPos := rfl
@[simp] theorem Channel.clearFlags_edPend (k : BitVec 3) (c : Channel) : (c.clearFlags k).edPend = c.edPend := rfl
@[simp] theorem Channel.clearFlags_diagCnt (k : BitVec 3) (c : Channel) : (c.clearFlags k).diagCnt = c.diagCnt := rfl
@[simp] theorem Channel.clearFlags_calPpr (k : BitVec 3) (c : Channel) : (c.clearFlags k).calPpr = c.calPpr := rfl
@[simp] theorem Channel.clearFlags_calDiam (k : BitVec 3) (c : Channel) : (c.clearFlags k).calDiam = c.calDiam := rfl
@[simp] theorem Channel.clearFlags_calDpp (k : BitVec 3) (c : Channel) : (c.clearFlags k).calDpp = c.calDpp := rfl
@[simp] theorem Channel.clearFlags_vPeriodMs (k : BitVec 3) (c : Channel) : (c.clearFlags k).vPeriodMs = c.vPeriodMs := rfl
@[simp] theorem Channel.clearFlags_vNext (k : BitVec 3) (c : Channel) : (c.clearFlags k).vNext = c.vNext := rfl
@[simp] theorem Channel.clearFlags_vPrevPos (k : BitVec 3) (c : Channel) : (c.clearFlags k).vPrevPos = c.vPrevPos := rfl
@[simp] theorem Channel.clearFlags_vPrevT (k : BitVec 3) (c : Channel) : (c.clearFlags k).vPrevT = c.vPrevT := rfl
@[simp] theorem Channel.clearFlags_vel (k : BitVec 3) (c : Channel) : (c.clearFlags k).vel = c.vel := rfl
@[simp] theorem Channel.clearFlags_pidSp (k : BitVec 3) (c : Channel) : (c.clearFlags k).pidSp = c.pidSp := rfl
@[simp] theorem Channel.clearFlags_pidMeas (k : BitVec 3) (c : Channel) : (c.clearFlags k).pidMeas = c.pidMeas := rfl
@[simp] theorem Channel.clearFlags_pidOut (k : BitVec 3) (c : Channel) : (c.clearFlags k).pidOut = c.pidOut := rfl
@[simp] theorem Channel.clearFlags_pidKp (k : BitVec 3) (c : Channel) : (c.clearFlags k).pidKp = c.pidKp := rfl
@[simp] theorem Channel.clearFlags_pidKi (k : BitVec 3) (c : Channel) : (c.clearFlags k).pidKi = c.pidKi := rfl
@[simp] theorem Channel.clearFlags_pidKd (k : BitVec 3) (c : Channel) : (c.clearFlags k).pidKd = c.pidKd := rfl
@[simp] theorem Channel.clearFlags_pidInt (k : BitVec 3) (c : Channel) : (c.clearFlags k).pidInt = c.pidInt := rfl
@[simp] theorem Channel.clearFlags_pidPerr (k : BitVec 3) (c : Channel) : (c.clearFlags k).pidPerr = c.pidPerr := rfl
@[simp] theorem Channel.clearFlags_pidTMs (k : BitVec 3) (c : Channel) : (c.clearFlags k).pidTMs = c.pidTMs := rfl
@[simp] theorem Channel.clearFlags_pidMode (k : BitVec 3) (c : Channel) : (c.clearFlags k).pidMode = c.pidMode := rfl
@[simp] theorem Channel.clearFlags_pidSeed (k : BitVec 3) (c : Channel) : (c.clearFlags k).pidSeed = c.pidSeed := rfl
@[simp] theorem Channel.clearFlags_pidLast (k : BitVec 3) (c : Channel) : (c.clearFlags k).pidLast = c.pidLast := rfl
@[simp] theorem Channel.clearFlags_pidMin (k : BitVec 3) (c : Channel) : (c.clearFlags k).pidMin = c.pidMin := rfl
@[simp] theorem Channel.clearFlags_pidMax (k : BitVec 3) (c : Channel) : (c.clearFlags k).pidMax = c.pidMax := rfl
@[simp] theorem Channel.clearFlags_en (k : BitVec 3) (c : Channel) : (c.clearFlags k).en = c.en := rfl
@[simp] theorem Channel.clearFlags_dirA (k : BitVec 3) (c : Channel) : (c.clearFlags k).dirA = c.dirA := rfl
@[simp] theorem Channel.clearFlags_dirB (k : BitVec 3) (c : Channel) : (c.clearFlags k).dirB = c.dirB := rfl
@[simp] theorem Channel.clearFlags_pwm (k : BitVec 3) (c : Channel) : (c.clearFlags k).pwm = c.pwm := rfl
@[simp] theorem Channel.clearFlags_lastDir (k : BitVec 3) (c : Channel) : (c.clearFlags k).lastDir = c.lastDir := rfl
@[simp] theorem Channel.clearFlags_q (k : BitVec 3) (c : Channel) : (c.clearFlags k).q = c.q := rfl
@[simp] theorem Channel.clearFlags_flags (k : BitVec 3) (c : Channel) : (c.clearFlags k).flags = c.flags &&& ~~~k := rfl

/-! ### Channel.push -/

@[simp] theorem Channel.push_par (e : Entry) (c : Channel) : (c.push e).par = c.par := rfl
@[simp] theorem Channel.push_qa (e : Entry) (c : Channel) : (c.push e).qa = c.qa := rfl
@[simp] theorem Channel.push_qb (e : Entry) (c : Channel) : (c.push e).qb = c.qb := rfl
@[simp] theorem Channel.push_edLast (e : Entry) (c : Channel) : (c.push e).edLast = c.edLast := rfl
@[simp] theorem Channel.push_edPos (e : Entry) (c : Channel) : (c.push e).edPos = c.edPos := rfl
@[simp] theorem Channel.push_edPend (e : Entry) (c : Channel) : (c.push e).edPend = c.edPend := rfl
@[simp] theorem Channel.push_diagCnt (e : Entry) (c : Channel) : (c.push e).diagCnt = c.diagCnt := rfl
@[simp] theorem Channel.push_calPpr (e : Entry) (c : Channel) : (c.push e).calPpr = c.calPpr := rfl
@[simp] theorem Channel.push_calDiam (e : Entry) (c : Channel) : (c.push e).calDiam = c.calDiam := rfl
@[simp] theorem Channel.push_calDpp (e : Entry) (c : Channel) : (c.push e).calDpp = c.calDpp := rfl
@[simp] theorem Channel.push_vPeriodMs (e : Entry) (c : Channel) : (c.push e).vPeriodMs = c.vPeriodMs := rfl
@[simp] theorem Channel.push_vNext (e : Entry) (c : Channel) : (c.push e).vNext = c.vNext := rfl
@[simp] theorem Channel.push_vPrevPos (e : Entry) (c : Channel) : (c.push e).vPrevPos = c.vPrevPos := rfl
@[simp] theorem Channel.push_vPrevT (e : Entry) (c : Channel) : (c.push e).vPrevT = c.vPrevT := rfl
@[simp] theorem Channel.push_vel (e : Entry) (c : Channel) : (c.push e).vel = c.vel := rfl
@[simp] theorem Channel.push_pidSp (e : Entry) (c : Channel) : (c.push e).pidSp = c.pidSp := rfl
@[simp] theorem Channel.push_pidMeas (e : Entry) (c : Channel) : (c.push e).pidMeas = c.pidMeas := rfl
@[simp] theorem Channel.push_pidOut (e : Entry) (c : Channel) : (c.push e).pidOut = c.pidOut := rfl
@[simp] theorem Channel.push_pidKp (e : Entry) (c : Channel) : (c.push e).pidKp = c.pidKp := rfl
@[simp] theorem Channel.push_pidKi (e : Entry) (c : Channel) : (c.push e).pidKi = c.pidKi := rfl
@[simp] theorem Channel.push_pidKd (e : Entry) (c : Channel) : (c.push e).pidKd = c.pidKd := rfl
@[simp] theorem Channel.push_pidInt (e : Entry) (c : Channel) : (c.push e).pidInt = c.pidInt := rfl
@[simp] theorem Channel.push_pidPerr (e : Entry) (c : Channel) : (c.push e).pidPerr = c.pidPerr := rfl
@[simp] theorem Channel.push_pidTMs (e : Entry) (c : Channel) : (c.push e).pidTMs = c.pidTMs := rfl
@[simp] theorem Channel.push_pidMode (e : Entry) (c : Channel) : (c.push e).pidMode = c.pidMode := rfl
@[simp] theorem Channel.push_pidSeed (e : Entry) (c : Channel) : (c.push e).pidSeed = c.pidSeed := rfl
@[simp] theorem Channel.push_pidLast (e : Entry) (c : Channel) : (c.push e).pidLast = c.pidLast := rfl
@[simp] theorem Channel.push_pidMin (e : Entry) (c : Channel) : (c.push e).pidMin = c.pidMin := rfl
@[simp] theorem Channel.push_pidMax (e : Entry) (c : Channel) : (c.push e).pidMax = c.pidMax := rfl
@[simp] theorem Channel.push_en (e : Entry) (c : Channel) : (c.push e).en = c.en := rfl
@[simp] theorem Channel.push_dirA (e : Entry) (c : Channel) : (c.push e).dirA = c.dirA := rfl
@[simp] theorem Channel.push_dirB (e : Entry) (c : Channel) : (c.push e).dirB = c.dirB := rfl
@[simp] theorem Channel.push_pwm (e : Entry) (c : Channel) : (c.push e).pwm = c.pwm := rfl
@[simp] theorem Channel.push_lastDir (e : Entry) (c : Channel) : (c.push e).lastDir = c.lastDir := rfl
@[simp] theorem Channel.push_q (e : Entry) (c : Channel) : (c.push e).q = c.q ++ [e] := rfl
@[simp] theorem Channel.push_flags (e : Entry) (c : Channel) : (c.push e).flags = c.flags := rfl

/-! ### Channel.pop -/

@[simp] theorem Channel.pop_par (c : Channel) : (c.pop).par = c.par := rfl
@[simp] theorem Channel.pop_qa (c : Channel) : (c.pop).qa = c.qa := rfl
@[simp] theorem Channel.pop_qb (c : Channel) : (c.pop).qb = c.qb := rfl
@[simp] theorem Channel.pop_edLast (c : Channel) : (c.pop).edLast = c.edLast := rfl
@[simp] theorem Channel.pop_edPos (c : Channel) : (c.pop).edPos = c.edPos := rfl
@[simp] theorem Channel.pop_edPend (c : Channel) : (c.pop).edPend = c.edPend := rfl
@[simp] theorem Channel.pop_diagCnt (c : Channel) : (c.pop).diagCnt = c.diagCnt := rfl
@[simp] theorem Channel.pop_calPpr (c : Channel) : (c.pop).calPpr = c.calPpr := rfl
@[simp] theorem Channel.pop_calDiam (c : Channel) : (c.pop).calDiam = c.calDiam := rfl
@[simp] theorem Channel.pop_calDpp (c : Channel) : (c.pop).calDpp = c.calDpp := rfl
@[simp] theorem Channel.pop_vPeriodMs (c : Channel) : (c.pop).vPeriodMs = c.vPeriodMs := rfl
@[simp] theorem Channel.pop_vNext (c : Channel) : (c.pop).vNext = c.vNext := rfl
@[simp] theorem Channel.pop_vPrevPos (c : Channel) : (c.pop).vPrevPos = c.vPrevPos := rfl
@[simp] theorem Channel.pop_vPrevT (c : Channel) : (c.pop).vPrevT = c.vPrevT := rfl
@[simp] theorem Channel.pop_vel (c : Channel) : (c.pop).vel = c.vel := rfl
@[simp] theorem Channel.pop_pidSp (c : Channel) : (c.pop).pidSp = c.pidSp := rfl
@[simp] theorem Channel.pop_pidMeas (c : Channel) : (c.pop).pidMeas = c.pidMeas := rfl
@[simp] theorem Channel.pop_pidOut (c : Channel) : (c.pop).pidOut = c.pidOut := rfl
@[simp] theorem Channel.pop_pidKp (c : Channel) : (c.pop).pidKp = c.pidKp := rfl
@[simp] theorem Channel.pop_pidKi (c : Channel) : (c.pop).pidKi = c.pidKi := rfl
@[simp] theorem Channel.pop_pidKd (c : Channel) : (c.pop).pidKd = c.pidKd := rfl
@[simp] theorem Channel.pop_pidInt (c : Channel) : (c.pop).pidInt = c.pidInt := rfl
@[simp] theorem Channel.pop_pidPerr (c : Channel) : (c.pop).pidPerr = c.pidPerr := rfl
@[simp] theorem Channel.pop_pidTMs (c : Channel) : (c.pop).pidTMs = c.pidTMs := rfl
@[simp] theorem Channel.pop_pidMode (c : Channel) : (c.pop).pidMode = c.pidMode := rfl
@[simp] theorem Channel.pop_pidSeed (c : Channel) : (c.pop).pidSeed = c.pidSeed := rfl
@[simp] theorem Channel.pop_pidLast (c : Channel) : (c.pop).pidLast = c.pidLast := rfl
@[simp] theorem Channel.pop_pidMin (c : Channel) : (c.pop).pidMin = c.pidMin := rfl
@[simp] theorem Channel.pop_pidMax (c : Channel) : (c.pop).pidMax = c.pidMax := rfl
@[simp] theorem Channel.pop_en (c : Channel) : (c.pop).en = c.en := rfl
@[simp] theorem Channel.pop_dirA (c : Channel) : (c.pop).dirA = c.dirA := rfl
@[simp] theorem Channel.pop_dirB (c : Channel) : (c.pop).dirB = c.dirB := rfl
@[simp] theorem Channel.pop_pwm (c : Channel) : (c.pop).pwm = c.pwm := rfl
@[simp] theorem Channel.pop_lastDir (c : Channel) : (c.pop).lastDir = c.lastDir := rfl
@[simp] theorem Channel.pop_q (c : Channel) : (c.pop).q = c.q.tail := rfl
@[simp] theorem Channel.pop_flags (c : Channel) : (c.pop).flags = c.flags := rfl

end Sys2Proof.Machine
end

