-- ==== Sys2Proof/Laws/Ops.lean ====
section
/-! SUPPORT. For each shared operation, once, what it can do: the checks before a command or an event, the pin writes and
SET_DUTY_CORE, and the passes of DISPATCH. -/

namespace Sys2Proof.Machine

/-! ## The checks before a command and an event -/

theorem onGlobal_ready {s : State} (h : s.cfgHalt = false) (body : Result) : onGlobal s body = body := by
  simp [onGlobal, h]

theorem onGlobal_halted {s : State} (h : s.cfgHalt = true) (body : Result) :
    onGlobal s body = .next (s.setStatus .configurationError) := by
  simp [onGlobal, raise, h]

theorem onChannel_ready {s : State} {m : Nat} {c : Channel} (h : Ready s m c) (body : Channel → Result) :
    onChannel m s body = body c := by
  simp [onChannel, onGlobal, h.1, h.2]

theorem onChannel_halted {s : State} (m : Nat) (h : s.cfgHalt = true) (body : Channel → Result) :
    onChannel m s body = .next (s.setStatus .configurationError) :=
  onGlobal_halted h _

theorem onChannel_missing {s : State} {m : Nat} (h : s.cfgHalt = false) (hm : s.chans.length ≤ m)
    (body : Channel → Result) : onChannel m s body = .next (s.setStatus .invalidArgument) := by
  simp [onChannel, onGlobal, raise, h, hm]

/-- A global command is turned away by the halt, or its body runs. -/
theorem onGlobal_next {s t : State} {body : Result} (h : onGlobal s body = .next t) :
    t = s.setStatus .configurationError ∧ s.cfgHalt = true ∨ s.cfgHalt = false ∧ body = .next t := by
  unfold onGlobal raise at h
  split at h
  · left; simp_all
  · right; simp_all

/-- A channel command is turned away by the halt or by its channel number, or its body runs on that channel. -/
theorem onChannel_next {s t : State} {m : Nat} {body : Channel → Result} (h : onChannel m s body = .next t) :
    (∃ st, st ≠ .ok ∧ st ≠ .disabled ∧ t = s.setStatus st) ∨ ∃ c, Ready s m c ∧ body c = .next t := by
  unfold onChannel onGlobal raise at h
  split at h
  · left; exact ⟨.configurationError, by decide, by decide, by simp_all⟩
  · split at h
    · left; exact ⟨.invalidArgument, by decide, by decide, by simp_all⟩
    · right; exact ⟨_, ⟨by simp_all, by assumption⟩, h⟩

/-- An argument is rejected, or its value goes on to the body. -/
theorem withArg_next {α : Type} {s t : State} {a : Option α} {body : α → Result} (h : withArg a s body = .next t) :
    t = s.setStatus .invalidArgument ∧ a = none ∨ ∃ v, a = some v ∧ body v = .next t := by
  unfold withArg raise at h
  split at h
  · left; simp_all
  · right; exact ⟨_, rfl, h⟩

/-- A channel event takes place exactly on a channel that exists and where it is enabled. -/
theorem onEvent_next {s t : State} {m : Nat} {enabled : Channel → Bool} {body : Channel → Result} :
    onEvent m s enabled body = .next t ↔ ∃ c, s.chans[m]? = some c ∧ enabled c = true ∧ body c = .next t := by
  unfold onEvent
  split
  · simp_all
  · split <;> simp_all

/-! ## Outputs -/

/-- Setting an output to the level it has changes nothing. -/
theorem Channel.setLevel_level (c : Channel) (p : Pin) : c.setLevel p (c.level p) = c := by
  cases p <;> cases c <;> simp [Channel.setLevel, Channel.level]

/-- After a pin write the output has the level. -/
@[simp] theorem Drive.pin_chan (m : Nat) (p : Pin) (v : Nat) (d : Drive) :
    (d.pin m p v).chan = d.chan.setLevel p v := by
  unfold Drive.pin
  split
  · rename_i h; rw [← h, Channel.setLevel_level]
  · rfl

/-- A pin write logs the change of level, and nothing when there is none. -/
@[simp] theorem Drive.pin_log (m : Nat) (p : Pin) (v : Nat) (d : Drive) :
    (d.pin m p v).log = d.log ++ if d.chan.level p = v then [] else [.pin m p v] := by
  unfold Drive.pin
  split <;> simp

/-- After the direction change the direction stands, and the magnitude is 0 if it had to change. -/
theorem Drive.turn_chan (m : Nat) (a b : Bool) (d : Drive) :
    (d.turn m a b).chan =
      { d.chan with
        dirA := a, dirB := b, pwm := if d.chan.dirA = a ∧ d.chan.dirB = b then d.chan.pwm else 0 } := by
  unfold Drive.turn
  obtain ⟨c, l⟩ := d
  cases c
  rename_i dA dB _ _ _ _
  cases a <;> cases b <;> cases dA <;> cases dB <;> simp [Drive.pinIf, Channel.setLevel]

theorem dutyStatus_ok {v : Int} {c : Channel} : dutyStatus v c = .ok ↔ DutyAccepted v c := by
  unfold dutyStatus
  split
  · simp; omega
  · rename_i h
    simp only [not_or, not_lt] at h
    split <;> simp_all [DutyAccepted]

/-- What SET_DUTY_CORE leaves of the channel. -/
theorem setDutyCore_chan (m : Nat) (v : Int) (src : Source) (c : Channel) :
    (setDutyCore m v src c).chan =
      if dutyStatus v c = .ok then
        { c with
          dirA := decide (0 ≤ v), dirB := !decide (0 ≤ v), pwm := BitVec.ofNat 7 v.natAbs,
          lastDir := !decide (0 ≤ v) }
      else c := by
  unfold setDutyCore
  split
  · rename_i h
    simp only [h, ne_eq, not_true_eq_false, ↓reduceIte, Drive.pin_chan, Drive.turn_chan, Channel.setLevel]
  · rename_i h
    simp only [h, ne_eq, not_false_eq_true, ↓reduceIte]

/-- `d'` has logged after `d` nothing but level changes of outputs of channel `m`. -/
def Drive.Pins (m : Nat) (d d' : Drive) : Prop := ∃ es, d'.log = d.log ++ es ∧ ∀ e ∈ es, ∃ p v, e = .pin m p v

theorem Drive.Pins.refl (m : Nat) (d : Drive) : Drive.Pins m d d := ⟨[], by simp, by simp⟩

theorem Drive.Pins.trans {m : Nat} {d d1 d2 : Drive} (h : Drive.Pins m d d1) (k : Drive.Pins m d1 d2) :
    Drive.Pins m d d2 := by
  obtain ⟨es, h1, h2⟩ := h
  obtain ⟨fs, k1, k2⟩ := k
  exact ⟨es ++ fs, by simp [k1, h1], fun e he => (List.mem_append.mp he).elim (h2 e) (k2 e)⟩

theorem Drive.pin_pins (m : Nat) (p : Pin) (v : Nat) (d : Drive) : Drive.Pins m d (d.pin m p v) := by
  refine ⟨_, Drive.pin_log m p v d, ?_⟩
  intro e he
  split at he <;> simp_all

theorem Drive.pinIf_pins (go : Bool) (m : Nat) (p : Pin) (v : Nat) (d : Drive) :
    Drive.Pins m d (d.pinIf go m p v) := by
  cases go
  · exact Drive.Pins.refl m d
  · exact Drive.pin_pins m p v d

theorem Drive.turn_pins (m : Nat) (a b : Bool) (d : Drive) : Drive.Pins m d (d.turn m a b) := by
  unfold Drive.turn
  split
  · exact Drive.Pins.refl m d
  · exact ((((Drive.pin_pins ..).trans (Drive.pinIf_pins ..)).trans (Drive.pinIf_pins ..)).trans
      (Drive.pinIf_pins ..)).trans (Drive.pinIf_pins ..)

/-- The first event SET_DUTY_CORE logs is the call with its status; the others are level changes of its channel, and a
rejected call has none. -/
theorem setDutyCore_log (m : Nat) (v : Int) (src : Source) (c : Channel) :
    ∃ es, (setDutyCore m v src c).log = .duty m v src (dutyStatus v c) :: es ∧ (∀ e ∈ es, ∃ p l, e = .pin m p l) ∧
      (dutyStatus v c ≠ .ok → es = []) := by
  by_cases h : dutyStatus v c = .ok
  · obtain ⟨es, h1, h2⟩ := (Drive.turn_pins m (decide (0 ≤ v)) (!decide (0 ≤ v))
      { chan := c, log := [.duty m v src .ok] }).trans (Drive.pin_pins m .pwm v.natAbs _)
    exact ⟨es, by simpa [setDutyCore, h] using h1, h2, fun k => absurd h k⟩
  · exact ⟨[], by simp [setDutyCore, h], by simp, fun _ => rfl⟩

/-! ## The queue and DISPATCH -/

/-- Step 1 of DISPATCH leaves a channel as it was, or pops its running head, which is due. -/
theorem completeHead_cases (now : U64) (c : Channel) :
    completeHead now c = c ∨
      ∃ e es, c.q = e :: es ∧ e.run = true ∧ e.dl.toNat ≤ now.toNat ∧ completeHead now c = { c with q := es } := by
  rcases hq : c.q with _ | ⟨e, es⟩
  · simp [completeHead, Channel.running, hq]
  · cases hr : e.run
    · simp [completeHead, Channel.running, hq, hr]
    · by_cases hd : e.dl.toNat ≤ now.toNat
      · right; exact ⟨e, es, rfl, hr, hd, by simp [completeHead, Channel.running, hq, hr, hd, Channel.pop]⟩
      · left; simp [completeHead, Channel.running, hq, hr, hd]

/-- Step 2 of DISPATCH leaves a channel as it was and logs nothing, or starts its PENDING head. -/
theorem startHead_cases (now : U64) (m : Nat) (c : Channel) :
    (startHead now m c = { chan := c, log := [] } ∧ (c.q = [] ∨ c.running.isSome = true)) ∨
      ∃ e es, c.q = e :: es ∧ e.run = false ∧
        startHead now m c =
          { chan :=
              { (setDutyCore m (spow e) .sched c).chan with
                flags := if dutyStatus (spow e) c = .ok then c.flags else c.flags ||| flagOutrejSched
                q := { e with dl := BitVec.ofNat 64 (now.toNat + e.dur.toNat), run := true } :: es }
            log := (setDutyCore m (spow e) .sched c).log } := by
  rcases hq : c.q with _ | ⟨e, es⟩
  · simp [startHead, hq]
  · cases hr : e.run
    · right
      refine ⟨e, es, rfl, hr, ?_⟩
      by_cases hk : dutyStatus (spow e) c = .ok <;>
        simp [startHead, hq, hr, hk, Channel.setFlag, setDutyCore_chan]
    · left; simp [startHead, Channel.running, hq, hr]

theorem startFrom_chans (now : U64) (n : Nat) (cs : List Channel) :
    (startFrom now n cs).1 = cs.mapIdx fun i c => (startHead now (n + i) c).chan := by
  induction cs generalizing n with
  | nil => rfl
  | cons c cs ih => simp [startFrom, ih, List.mapIdx_cons, Nat.add_assoc, Nat.add_comm 1]

theorem startFrom_log (now : U64) (n : Nat) (cs : List Channel) :
    (startFrom now n cs).2 = (cs.mapIdx fun i c => (startHead now (n + i) c).log).flatten := by
  induction cs generalizing n with
  | nil => rfl
  | cons c cs ih => simp [startFrom, ih, List.mapIdx_cons, Nat.add_assoc, Nat.add_comm 1]

theorem mapIdx_map {α β γ : Type} (f : α → β) (g : Nat → β → γ) (xs : List α) :
    (xs.map f).mapIdx g = xs.mapIdx fun i x => g i (f x) := by
  apply List.ext_getElem?
  simp [Function.comp_def]

/-- What one DISPATCH does to the channel of number `m`, and what it logs there. -/
def dispatchHead (now : U64) (m : Nat) (c : Channel) : Drive := startHead now m (completeHead now c)

theorem State.armAlarm_eq (s : State) :
    s.armAlarm = { s with alarmArm := s.armAlarm.alarmArm, alarmAt := s.armAlarm.alarmAt } := by
  unfold State.armAlarm
  split <;> rfl

/-- DISPATCH, channel by channel; besides the channels it writes the log and the alarm, nothing else. -/
theorem dispatch_eq (s : State) :
    dispatch s =
      { s with
        chans := s.chans.mapIdx fun m c => (dispatchHead s.now m c).chan
        outlog := s.outlog ++ (s.chans.mapIdx fun m c => (dispatchHead s.now m c).log).flatten
        alarmArm := (dispatch s).alarmArm, alarmAt := (dispatch s).alarmAt } := by
  conv_lhs => unfold dispatch
  rw [State.armAlarm_eq]
  simp [startFrom_chans, startFrom_log, dispatchHead, dispatch, mapIdx_map]

theorem dispatch_getElem? (s : State) (m : Nat) :
    (dispatch s).chans[m]? = s.chans[m]?.map fun c => (dispatchHead s.now m c).chan := by
  rw [dispatch_eq]; simp

/-- A channel of the block after DISPATCH is what DISPATCH made of a channel of the block. -/
theorem mem_dispatch {s : State} {c' : Channel} (h : c' ∈ (dispatch s).chans) :
    ∃ m c, s.chans[m]? = some c ∧ c ∈ s.chans ∧ c' = (dispatchHead s.now m c).chan := by
  obtain ⟨m, hm⟩ := List.mem_iff_getElem?.mp h
  rw [dispatch_getElem?] at hm
  cases hc : s.chans[m]? with
  | none => simp [hc] at hm
  | some c => exact ⟨m, c, hc, List.mem_of_getElem? hc, by simp_all⟩

/-- The alarm after it has been armed: armed exactly for the earliest running deadline. -/
theorem State.armAlarm_cases (s : State) :
    (runningDeadlines s.chans = [] ∧ s.armAlarm = { s with alarmArm := false, alarmAt := 0 }) ∨
      ∃ t ∈ runningDeadlines s.chans, (∀ u ∈ runningDeadlines s.chans, t ≤ u) ∧
        s.armAlarm = { s with alarmArm := true, alarmAt := BitVec.ofNat 64 t } := by
  unfold State.armAlarm
  split
  · rename_i h; left; exact ⟨by simpa using h, rfl⟩
  · rename_i t h
    right
    exact ⟨t, List.min?_mem h, fun u hu => (List.le_min?_iff h).mp le_rfl u hu, rfl⟩

end Sys2Proof.Machine
end

