-- ==== Sys2Proof/Laws/Arith.lean ====
section
/-! SUPPORT. The bounds of the fixed-point operations, the range of each argument type, and due times that do not
wrap. -/

namespace Sys2Proof.Machine

theorem sat64_bounds (x : Int) : -2 ^ 63 ≤ sat64 x ∧ sat64 x < 2 ^ 63 := by unfold sat64; omega

/-- What fits is not changed by saturation. -/
theorem sat64_of_fits {x : Int} (h : -2 ^ 63 ≤ x) (k : x < 2 ^ 63) : sat64 x = x := by unfold sat64; omega

theorem clamp_bounds {lo hi : Int} (h : lo ≤ hi) (x : Int) : lo ≤ clamp x lo hi ∧ clamp x lo hi ≤ hi := by
  unfold clamp; omega

/-- What is within the limits is not changed by the clamp. -/
theorem clamp_of_within {x lo hi : Int} (h : lo ≤ x) (k : x ≤ hi) : clamp x lo hi = x := by unfold clamp; omega

/-- The pattern of an s64 value has that value. -/
theorem q64_toInt {x : Int} (h : -2 ^ 63 ≤ x) (k : x < 2 ^ 63) : (q64 x).toInt = x := by
  unfold q64
  rw [BitVec.toInt_ofInt, Int.bmod_eq_of_le] <;> simp <;> omega

/-- Clamping a value between two patterns gives a pattern between them. -/
theorem q64_clamp {lo hi : U64} (h : lo.toInt ≤ hi.toInt) (x : Int) :
    lo.toInt ≤ (q64 (clamp x lo.toInt hi.toInt)).toInt ∧ (q64 (clamp x lo.toInt hi.toInt)).toInt ≤ hi.toInt := by
  have h1 := lo.le_toInt
  have h2 := hi.toInt_lt
  have h3 := clamp_bounds h x
  rw [q64_toInt (by omega) (by omega)]
  exact h3

/-! ## The argument types (R104) -/

theorem readU32_some {a : U64} {v : U32} : readU32 a = some v ↔ a.toNat < 2 ^ 32 ∧ a.toNat = v.toNat := by
  unfold readU32
  split
  · rename_i h
    simp only [Option.some.injEq, h, true_and]
    constructor
    · rintro rfl; simp; omega
    · intro hv; apply BitVec.eq_of_toNat_eq; simp; omega
  · simp_all

theorem readPos32_some {a : U64} {v : U32} :
    readPos32 a = some v ↔ (1 ≤ a.toNat ∧ a.toNat < 2 ^ 32) ∧ a.toNat = v.toNat := by
  unfold readPos32
  split
  · rename_i h
    simp only [Option.some.injEq, h, true_and, and_self]
    constructor
    · rintro rfl; simp; omega
    · intro hv; apply BitVec.eq_of_toNat_eq; simp; omega
  · simp_all

theorem readPctS_some {a : U64} {v : Int} : readPctS a = some v ↔ (-100 ≤ a.toInt ∧ a.toInt ≤ 100) ∧ a.toInt = v := by
  unfold readPctS
  split <;> simp_all

theorem readPctU_some {a : U64} {v : BitVec 7} : readPctU a = some v ↔ a.toNat ≤ 100 ∧ a.toNat = v.toNat := by
  unfold readPctU
  split
  · rename_i h
    simp only [Option.some.injEq, h, true_and]
    constructor
    · rintro rfl; simp; omega
    · intro hv; apply BitVec.eq_of_toNat_eq; simp; omega
  · simp_all

theorem readMask3_some {a : U64} {v : BitVec 3} : readMask3 a = some v ↔ a.toNat < 8 ∧ a.toNat = v.toNat := by
  unfold readMask3
  split
  · rename_i h
    simp only [Option.some.injEq, h, true_and]
    constructor
    · rintro rfl; simp; omega
    · intro hv; apply BitVec.eq_of_toNat_eq; simp; omega
  · simp_all

theorem readMode_none {a : U64} : readMode a = none ↔ 1 < a.toNat := by
  unfold readMode
  split
  · simp_all
  · split
    · simp_all
    · rename_i h0 h1
      simp only [true_iff]
      have h0 : a.toNat ≠ 0 := fun h => h0 (BitVec.eq_of_toNat_eq h)
      have h1 : a.toNat ≠ 1 := fun h => h1 (BitVec.eq_of_toNat_eq h)
      omega

theorem readAction_none {a : U64} : readAction a = none ↔ 2 < a.toNat := by
  unfold readAction
  split
  · simp_all
  · split
    · simp_all
    · split
      · simp_all
      · rename_i h0 h1 h2
        simp only [true_iff]
        have h0 : a.toNat ≠ 0 := fun h => h0 (BitVec.eq_of_toNat_eq h)
        have h1 : a.toNat ≠ 1 := fun h => h1 (BitVec.eq_of_toNat_eq h)
        have h2 : a.toNat ≠ 2 := fun h => h2 (BitVec.eq_of_toNat_eq h)
        omega

/-! ## Times -/

/-- A due time counted from a time within TIME_MAX does not wrap. -/
theorem dueAfter_toNat {t : U64} (h : t.toNat ≤ Config.timeMax) (ms : U32) :
    (dueAfter t ms).toNat = t.toNat + ms.toNat * 1000 := by
  have := ms.isLt
  unfold Config.timeMax at h
  simp [dueAfter]; omega

/-- The deadline of a started entry does not wrap within TIME_MAX. -/
theorem deadline_toNat {t : U64} (h : t.toNat ≤ Config.timeMax) (dur : U32) :
    (BitVec.ofNat 64 (t.toNat + dur.toNat)).toNat = t.toNat + dur.toNat := by
  have := dur.isLt
  unfold Config.timeMax at h
  simp; omega

end Sys2Proof.Machine
end

