-- ==== Sys2Proof/Laws/Decode.lean ====
section
/-! SUPPORT. The fields of a word that is put together from fields, and a word put together from its fields; the little-endian
bytes of a number; what a row of the opcode map that is found says of the map. -/

namespace Sys2Proof

theorem leBytes_length (k n : Nat) : (leBytes k n).length = k := by
  induction k generalizing n with
  | zero => rfl
  | succ k ih => simp [leBytes, ih]

/-- Reading the bytes of a number gives it back, as far as they hold it. -/
theorem leNat_leBytes (k n : Nat) : leNat (leBytes k n) = n % 256 ^ k := by
  induction k generalizing n with
  | zero => simp [leBytes, leNat, Nat.mod_one]
  | succ k ih =>
    simp only [leBytes, leNat, ih, BitVec.toNat_ofNat]
    rw [show 256 ^ (k + 1) = 256 * 256 ^ k by rw [Nat.pow_succ, Nat.mul_comm]]
    exact Nat.mod_mul.symm

/-- The three fields of a word `op ++ motor ++ low` (R101, R102). -/
theorem word_fields (a : BitVec 8) (b : BitVec 4) (c : BitVec 20) :
    opcodeField (a ++ b ++ c) = a ∧ motorField (a ++ b ++ c) = b ∧ rsvField (a ++ b ++ c) = c := by
  refine ⟨?_, ?_, ?_⟩
  · show BitVec.extractLsb' (n := 8 + 4 + 20) 24 8 (a ++ b ++ c) = a
    apply BitVec.eq_of_getLsbD_eq; intro i hi
    rw [BitVec.getLsbD_extractLsb', BitVec.getLsbD_append, BitVec.getLsbD_append, if_neg (by omega),
      if_neg (by omega), show 24 + i - 20 - 4 = i by omega]
    simp; omega
  · show BitVec.extractLsb' (n := 8 + 4 + 20) 20 4 (a ++ b ++ c) = b
    apply BitVec.eq_of_getLsbD_eq; intro i hi
    rw [BitVec.getLsbD_extractLsb', BitVec.getLsbD_append, BitVec.getLsbD_append, if_neg (by omega),
      if_pos (by omega), show 20 + i - 20 = i by omega]
    simp; omega
  · show BitVec.extractLsb' (n := 8 + 4 + 20) 0 20 (a ++ b ++ c) = c
    apply BitVec.eq_of_getLsbD_eq; intro i hi
    rw [BitVec.getLsbD_extractLsb', BitVec.getLsbD_append, if_pos (by omega), show 0 + i = i by omega]
    simp; omega

/-- The low fields of an EV_PHASE word (R102). -/
theorem phase_fields (a : BitVec 8) (m : BitVec 4) (x y : Bool) :
    phaseRsvField (a ++ m ++ (0#18 ++ BitVec.ofBool x ++ BitVec.ofBool y)) = 0 ∧
      BitVec.getLsbD (w := 32) (a ++ m ++ (0#18 ++ BitVec.ofBool x ++ BitVec.ofBool y)) 1 = x ∧
      BitVec.getLsbD (w := 32) (a ++ m ++ (0#18 ++ BitVec.ofBool x ++ BitVec.ofBool y)) 0 = y := by
  refine ⟨?_, ?_, ?_⟩
  · show BitVec.extractLsb' (n := 8 + 4 + (18 + 1 + 1)) 2 18
      (a ++ m ++ (0#18 ++ BitVec.ofBool x ++ BitVec.ofBool y)) = 0
    apply BitVec.eq_of_getLsbD_eq; intro i hi
    rw [BitVec.getLsbD_extractLsb', BitVec.getLsbD_append, if_pos (by omega), BitVec.getLsbD_append,
      if_neg (by omega), BitVec.getLsbD_append, if_neg (by omega)]
    simp
  · show BitVec.getLsbD (w := 8 + 4 + (18 + 1 + 1))
      (a ++ m ++ (0#18 ++ BitVec.ofBool x ++ BitVec.ofBool y)) 1 = x
    rw [BitVec.getLsbD_append, if_pos (by omega), BitVec.getLsbD_append, if_neg (by omega), BitVec.getLsbD_append,
      if_pos (by omega)]
    simp
  · show BitVec.getLsbD (w := 8 + 4 + (18 + 1 + 1))
      (a ++ m ++ (0#18 ++ BitVec.ofBool x ++ BitVec.ofBool y)) 0 = y
    rw [BitVec.getLsbD_append, if_pos (by omega), BitVec.getLsbD_append, if_pos (by omega)]
    simp

/-- A word is its three fields. -/
theorem word_of_fields (w : U32) : opcodeField w ++ motorField w ++ rsvField w = w := by
  show (BitVec.extractLsb' 24 8 w ++ BitVec.extractLsb' 20 4 w ++ BitVec.extractLsb' 0 20 w :
    BitVec (8 + 4 + 20)) = w
  apply BitVec.eq_of_getLsbD_eq
  intro i hi
  rw [BitVec.getLsbD_append, BitVec.getLsbD_append]
  simp only [BitVec.getLsbD_extractLsb']
  split
  · simp; omega
  · split
    · rw [show 20 + (i - 20) = i by omega]; simp; omega
    · rw [show 24 + (i - 20 - 4) = i by omega]; simp; omega

/-- The low twenty bits are the reserved bits of EV_PHASE and the two levels. -/
theorem low_of_phase_fields (w : U32) :
    rsvField w = phaseRsvField w ++ BitVec.ofBool (w.getLsbD 1) ++ BitVec.ofBool (w.getLsbD 0) := by
  show (BitVec.extractLsb' 0 20 w : BitVec (18 + 1 + 1)) =
    (BitVec.extractLsb' 2 18 w ++ BitVec.ofBool (w.getLsbD 1) ++ BitVec.ofBool (w.getLsbD 0) : BitVec (18 + 1 + 1))
  apply BitVec.eq_of_getLsbD_eq
  intro i hi
  rw [BitVec.getLsbD_append, BitVec.getLsbD_append]
  simp only [BitVec.getLsbD_extractLsb']
  by_cases h0 : i = 0
  · subst h0; simp
  · by_cases h1 : i = 1
    · subst h1; simp
    · simp [h0, show 2 + (i - 1 - 1) = i by omega, show i < 20 by omega, show i - 1 - 1 < 18 by omega]
      intro hh; omega

theorem mem_of_lookup {α β : Type} [BEq α] [LawfulBEq α] {k : α} {v : β} {l : List (α × β)}
    (h : l.lookup k = some v) : (k, v) ∈ l := by
  induction l with
  | nil => simp at h
  | cons x xs ih =>
    obtain ⟨a, b⟩ := x
    rw [List.lookup_cons] at h
    split at h
    · rename_i hh
      have := eq_of_beq hh
      subst this
      simp at h
      simp [h]
    · exact List.mem_cons_of_mem _ (ih h)

/-- The row found for an opcode stands in the opcode map. -/
theorem mem_of_rowOf {op : BitVec 8} {r : Row} (h : rowOf op = some r) : (op, r) ∈ opcodeMap := mem_of_lookup h

/-- No two rows of the opcode map have the same opcode, so the map is unambiguous (R106, R110). -/
theorem opcodeMap_distinct : (opcodeMap.map Prod.fst).Nodup := by decide

/-- The opcode of an instruction is the one its row of the map has, and only its own. -/
theorem opcode_in_map (i : Instr) : i.opcode ∈ opcodeMap.map Prod.fst := by
  cases i <;> simp only [Instr.opcode] <;> decide

end Sys2Proof
end

