-- ==== Sys2Proof/Laws/Step.lean ====
section
/-! SUPPORT. What one step can do, once: a window access, or exec of one instruction; and how a property that every
instruction keeps is kept by every step. -/

namespace Sys2Proof.Machine

/-- A CMD write is turned away with the word in G.CMD, or runs the command the word decodes to. -/
theorem commandWrite_cases (v : U64) (s : State) :
    (∃ st, st ≠ .ok ∧ st ≠ .disabled ∧
        commandWrite v s = .next { s with cmd := v.setWidth 32, status := st }) ∨
      ∃ i, v.extractLsb' 32 32 = 0 ∧ decodeCommand (v.setWidth 32) = .ok i ∧
        commandWrite v s = exec i { s with cmd := v.setWidth 32 } := by
  unfold commandWrite runCommandWord rejectWord onGlobal raise
  by_cases h : v.extractLsb' 32 32 = 0
  · simp only [h, ne_eq, not_true_eq_false, ↓reduceIte]
    cases hd : decodeCommand (v.setWidth 32) with
    | ok i => right; exact ⟨i, trivial, rfl, rfl⟩
    | error e =>
      left
      by_cases hc : s.cfgHalt = true
      · exact ⟨.configurationError, by decide, by decide, by simp [hc, State.setStatus]⟩
      · exact ⟨.illegalCommand, by decide, by decide, by simp [hc, State.setStatus]⟩
  · left; exact ⟨.illegalCommand, by decide, by decide, if_pos h⟩

theorem decodeCommand_isEvent {w : U32} {i : Instr} (h : decodeCommand w = .ok i) : i.isEvent = false := by
  unfold decodeCommand at h
  split at h
  · split at h <;> simp_all
  · simp_all

/-- Everything a step that has a next state can do. The host's access may change the window registers and what it read;
otherwise one instruction runs, that of `stepInstr`, on the state with the move gone, the command word written or one
choice more made. -/
theorem step_cases {s t : State} (h : step s = .next t) :
    (∃ cmd a0 a1 a2 st hd ag,
      t = { s with cmd := cmd, arg0 := a0, arg1 := a1, arg2 := a2, status := st, hostData := hd, agenda := ag }) ∨
      ∃ i cmd ag ch, stepInstr s = some i ∧ exec i { s with cmd := cmd, agenda := ag, choices := ch } = .next t := by
  unfold step at h
  split at h
  · rename_i mv rest hag
    cases mv with
    | hostWrite addr width v =>
      simp only [perform, hostWrite] at h
      split at h
      · simp at h
      · rename_i hslot
        rcases commandWrite_cases v { s with agenda := rest } with ⟨st, _, _, hc⟩ | ⟨i, hu, hd, hc⟩
        · rw [hc] at h
          left; exact ⟨_, _, _, _, _, _, _, (by simpa using h.symm)⟩
        · rw [hc] at h
          right; exact ⟨i, _, _, _, by simp [stepInstr, hag, hslot, hu, hd, Except.toOption], h⟩
      · rename_i slot _ _
        left
        cases slot <;> simp only [State.writeSlot, Host.Outcome.next.injEq] at h <;>
          exact ⟨_, _, _, _, _, _, _, h.symm⟩
    | hostRead addr width =>
      simp only [perform, hostRead] at h
      split at h
      · simp at h
      · left; exact ⟨_, _, _, _, _, _, _, (by simpa using h.symm)⟩
    | event w a =>
      simp only [perform, runEvent] at h
      split at h
      · rename_i hd
        split at h
        · right; exact ⟨_, _, _, _, by simp [stepInstr, hag, hd, Except.toOption], h⟩
        · simp at h
      · simp at h
  · unfold internalStep at h
    simp only at h
    rename_i hag
    split at h
    · rename_i hi; right; exact ⟨_, _, _, _, by simpa only [stepInstr, hag] using hi, h⟩
    · simp at h

/-- A property that every instruction keeps, and that does not look at the host's side of the block, is kept by every
step. -/
theorem step_keeps (P : State → Prop) (hexec : ∀ i s t, P s → exec i s = .next t → P t)
    (hwindow : ∀ s cmd a0 a1 a2 st hd ag ch, P s →
      P { s with
        cmd := cmd, arg0 := a0, arg1 := a1, arg2 := a2, status := st, hostData := hd, agenda := ag, choices := ch })
    {s t : State} (hs : P s) (h : step s = .next t) : P t := by
  rcases step_cases h with ⟨cmd, a0, a1, a2, st, hd, ag, rfl⟩ | ⟨i, cmd, ag, ch, _, he⟩
  · exact hwindow s cmd a0 a1 a2 st hd ag s.choices hs
  · exact hexec i _ t (hwindow s cmd s.arg0 s.arg1 s.arg2 s.status s.hostData ag ch hs) he

/-- What holds at power-on, does not look at the waiting moves and is kept by every step holds in every state of every
run. -/
theorem Reached.keeps {P : State → Prop} (hp : ∀ p cs, P (State.powerOn p cs))
    (ha : ∀ s moves, P s → P { s with agenda := moves }) (hk : ∀ s t, P s → step s = .next t → P t) {s : State}
    (h : Reached s) : P s := by
  induction h with
  | powerOn p cs => exact hp p cs
  | chosen moves _ ih => exact ha _ moves ih
  | stepped _ hs ih => exact hk _ _ ih hs

end Sys2Proof.Machine
end

