-- ==== Sys2Proof/Laws/Exec.lean ====
section
/-! SUPPORT. Everything an instruction can do when it has a next state, case by case: the inversion of exec. Proofs about
all instructions take these cases apart and unfold no meaning. -/

namespace Sys2Proof.Machine

/-- The ways in which an instruction takes the block from `s` to a next state. -/
inductive Effect (s : State) : Instr → State → Prop
  /-- a command turned away before its first write -/
  | rejected {i : Instr} {st : Status} : i.isEvent = false → st ≠ .ok → st ≠ .disabled → Effect s i (s.setStatus st)
  /-- a command that only answers: NOP, the reads, COMPUTE with no step due -/
  | answered {i : Instr} (v w : U64) : i.isEvent = false → s.cfgHalt = false →
      Effect s i (((s.setResult0 v).setResult1 w).setStatus .ok)
  | edReset {m : Nat} {c : Channel} : Ready s m c →
      Effect s (.edReset m)
        ((s.setChan m { c with edPos := 0, edLast := quad c.qa c.qb, diagCnt := 0, vPrevPos := 0 }).setStatus .ok)
  | calibrate {m : Nat} {c : Channel} {ppr : U32} : Ready s m c → readPos32 s.arg0 = some ppr → 0 < s.arg1.toInt →
      Effect s (.calibrate m)
        ((s.setChan m
          { c with calPpr := ppr, calDiam := s.arg1, calDpp := q64 (distancePerCount ppr s.arg1.toInt) }).setStatus .ok)
  | setVelPeriod {m : Nat} {c : Channel} {ms : U32} : Ready s m c → readPos32 s.arg0 = some ms →
      Effect s (.setVelPeriod m) ((s.setChan m { c with vPeriodMs := ms, vNext := dueAfter s.now ms }).setStatus .ok)
  | setTarget {m : Nat} {c : Channel} : Ready s m c →
      Effect s (.setTarget m) ((s.setChan m { c with pidSp := s.arg0 }).setStatus .ok)
  | setTunings {m : Nat} {c : Channel} : Ready s m c →
      Effect s (.setTunings m)
        ((s.setChan m { c with pidKp := s.arg0, pidKi := s.arg1, pidKd := s.arg2 }).setStatus .ok)
  | setMode {m : Nat} {c : Channel} (mode : PidMode) : Ready s m c →
      Effect s (.setMode m) ((s.setChan m (switchMode mode c)).setStatus .ok)
  | setInterval {m : Nat} {c : Channel} {ms : U32} : Ready s m c → readPos32 s.arg0 = some ms →
      Effect s (.setInterval m) ((s.setChan m { c with pidTMs := ms }).setStatus .ok)
  | setLimits {m : Nat} {c : Channel} : Ready s m c → limitsValid s.arg0.toInt s.arg1.toInt = true →
      Effect s (.setLimits m)
        ((s.setChan m
          { c with
            pidMin := s.arg0, pidMax := s.arg1,
            pidOut := q64 (clamp c.pidOut.toInt s.arg0.toInt s.arg1.toInt),
            pidInt := q64 (clamp c.pidInt.toInt s.arg0.toInt s.arg1.toInt) }).setStatus .ok)
  | setOutput {m : Nat} {c : Channel} : Ready s m c → c.pidMode ≠ .automatic →
      Effect s (.setOutput m)
        ((s.setChan m { c with pidOut := q64 (clamp s.arg0.toInt c.pidMin.toInt c.pidMax.toInt) }).setStatus .ok)
  | compute {m : Nat} {c : Channel} : Ready s m c → c.pidMode = .automatic → pidDue s.now c = true →
      Effect s (.compute m)
        (((s.commit m (pidStep s.now m c)).setResult0 (pidStep s.now m c).chan.pidOut).setStatus .ok)
  | setDuty {m : Nat} {c : Channel} (v : Int) : Ready s m c → dutyStatus v c ≠ .invalidArgument →
      Effect s (.setDuty m) ((s.commit m (setDutyCore m v .host c)).setStatus (dutyStatus v c))
  | enable {m : Nat} {c : Channel} : Ready s m c →
      Effect s (.enable m) ((s.commit m (Drive.pin m .en 1 { chan := c, log := [] })).setStatus .ok)
  | disable {m : Nat} {c : Channel} : Ready s m c →
      Effect s (.disable m) ((s.commit m (disablePins m c)).setStatus .ok)
  | drift {m : Nat} {c : Channel} : Ready s m c → Effect s (.drift m) ((s.commit m (driftPins m c)).setStatus .ok)
  | enqueue {m : Nat} {c : Channel} (act : Action) {pwr : BitVec 7} (dur : U32) : Ready s m c → pwr.toNat ≤ 100 →
      c.q.length < s.params.qcap →
      Effect s (.enqueue m) ((dispatch (s.setChan m (c.push (pendingEntry act pwr dur)))).setStatus .ok)
  | stop {m : Nat} {c : Channel} : Ready s m c →
      Effect s (.stop m) ((dispatch (s.setChan m { c with q := [stopEntry c] })).setStatus .ok)
  | clearFlags {m : Nat} {c : Channel} (mask : BitVec 3) : Ready s m c →
      Effect s (.clearFlags m) ((s.setChan m (c.clearFlags mask)).setStatus .ok)
  | evPhase {m : Nat} {c : Channel} (a b : Bool) : s.chans[m]? = some c →
      Effect s (.evPhase m a b) (s.setChan m (setPhase a b c))
  | evEdge {m : Nat} {c : Channel} : Ready s m c → c.edPend = true →
      Effect s (.evEdge m) (s.setChan m (edgeStep c))
  | evVtick {m : Nat} {c : Channel} : Ready s m c → c.vNext.toNat ≤ s.now.toNat →
      Effect s (.evVtick m) (s.setChan m (sampleStep s.now c))
  | evPtick {m : Nat} {c : Channel} : Ready s m c → c.pidMode = .automatic → pidDue s.now c = true →
      Effect s (.evPtick m) (s.commit m (pidStep s.now m c))
  | evAlarm : s.cfgHalt = false → s.alarmArm = true → s.alarmAt.toNat ≤ s.now.toNat →
      Effect s .evAlarm (dispatch s)
  | evTime {d : Nat} : 1 ≤ d → s.now.toNat + d ≤ Config.timeMax →
      Effect s (.evTime d) { s with now := BitVec.ofNat 64 (s.now.toNat + d) }
  | evReset : Effect s .evReset (resetBlock s)

/-- A command that answers in RESULT0 alone. -/
theorem Effect.answered0 {s : State} {i : Instr} (v : U64) (he : i.isEvent = false) (h : s.cfgHalt = false) :
    Effect s i ((s.setResult0 v).setStatus .ok) :=
  .answered v s.result1 he h

/-- A channel command is turned away, or its body runs. -/
theorem effect_onChannel {s t : State} {i : Instr} {m : Nat} {body : Channel → Result} (he : i.isEvent = false)
    (hb : ∀ c, Ready s m c → body c = .next t → Effect s i t) (h : onChannel m s body = .next t) : Effect s i t := by
  rcases onChannel_next h with ⟨st, h1, h2, rfl⟩ | ⟨c, hc, hx⟩
  · exact .rejected he h1 h2
  · exact hb c hc hx

theorem effect_withArg {α : Type} {s t : State} {i : Instr} {a : Option α} {body : α → Result}
    (he : i.isEvent = false) (hb : ∀ v, a = some v → body v = .next t → Effect s i t)
    (h : withArg a s body = .next t) : Effect s i t := by
  rcases withArg_next h with ⟨rfl, _⟩ | ⟨v, hv, hx⟩
  · exact .rejected he (by decide) (by decide)
  · exact hb v hv hx

theorem effect_raise {s t : State} {i : Instr} {st : Status} (he : i.isEvent = false) (h1 : st ≠ .ok)
    (h2 : st ≠ .disabled) (h : raise st s = .next t) : Effect s i t := by
  cases h
  exact .rejected he h1 h2

theorem readPctU_le {a : U64} {p : BitVec 7} (h : readPctU a = some p) : p.toNat ≤ 100 := by
  unfold readPctU at h
  split at h
  · cases h; simp; omega
  · simp at h

theorem dutyStatus_pct {a : U64} {v : Int} {c : Channel} (h : readPctS a = some v) :
    dutyStatus v c ≠ .invalidArgument := by
  unfold readPctS at h
  split at h
  · cases h
    unfold dutyStatus
    rw [if_neg (by omega)]
    split <;> decide
  · simp at h

/-- exec has only these effects. -/
theorem exec_effect {i : Instr} {s t : State} (h : exec i s = .next t) : Effect s i t := by
  cases i with
  | nop =>
    rcases onGlobal_next h with ⟨rfl, _⟩ | ⟨h0, hx⟩
    · exact .rejected rfl (by decide) (by decide)
    · cases hx; exact .answered s.result0 s.result1 rfl h0
  | getAlarm =>
    rcases onGlobal_next h with ⟨rfl, _⟩ | ⟨h0, hx⟩
    · exact .rejected rfl (by decide) (by decide)
    · cases hx; exact .answered _ _ rfl h0
  | getTime =>
    rcases onGlobal_next h with ⟨rfl, _⟩ | ⟨h0, hx⟩
    · exact .rejected rfl (by decide) (by decide)
    · cases hx; exact .answered0 _ rfl h0
  | edReset m => exact effect_onChannel rfl (fun c hc hx => by cases hx; exact .edReset hc) h
  | edGetcount m => exact effect_onChannel rfl (fun c hc hx => by cases hx; exact .answered0 _ rfl hc.1) h
  | getPosition m => exact effect_onChannel rfl (fun c hc hx => by cases hx; exact .answered _ _ rfl hc.1) h
  | edGetdiag m => exact effect_onChannel rfl (fun c hc hx => by cases hx; exact .answered _ _ rfl hc.1) h
  | calibrate m =>
    refine effect_onChannel rfl (fun c hc => effect_withArg rfl fun ppr hp hx => ?_) h
    split at hx
    · exact effect_raise rfl (by decide) (by decide) hx
    · cases hx; exact .calibrate hc hp (by omega)
  | getCalibration m => exact effect_onChannel rfl (fun c hc hx => by cases hx; exact .answered _ _ rfl hc.1) h
  | getVelocity m => exact effect_onChannel rfl (fun c hc hx => by cases hx; exact .answered0 _ rfl hc.1) h
  | setVelPeriod m =>
    exact effect_onChannel rfl (fun c hc => effect_withArg rfl fun ms hp hx => by cases hx; exact .setVelPeriod hc hp) h
  | getVelPeriod m => exact effect_onChannel rfl (fun c hc hx => by cases hx; exact .answered _ _ rfl hc.1) h
  | setTarget m => exact effect_onChannel rfl (fun c hc hx => by cases hx; exact .setTarget hc) h
  | setTunings m => exact effect_onChannel rfl (fun c hc hx => by cases hx; exact .setTunings hc) h
  | setMode m =>
    exact effect_onChannel rfl (fun c hc => effect_withArg rfl fun mode _ hx => by cases hx; exact .setMode mode hc) h
  | setInterval m =>
    exact effect_onChannel rfl (fun c hc => effect_withArg rfl fun ms hp hx => by cases hx; exact .setInterval hc hp) h
  | setLimits m =>
    refine effect_onChannel rfl (fun c hc hx => ?_) h
    simp only at hx
    split at hx
    · rename_i hv; cases hx; exact .setLimits hc hv
    · exact effect_raise rfl (by decide) (by decide) hx
  | setOutput m =>
    refine effect_onChannel rfl (fun c hc hx => ?_) h
    split at hx
    · exact effect_raise rfl (by decide) (by decide) hx
    · rename_i hm; cases hx; exact .setOutput hc hm
  | compute m =>
    refine effect_onChannel rfl (fun c hc hx => ?_) h
    split at hx
    · rename_i hd; cases hx; exact .compute hc hd.1 hd.2
    · cases hx; exact .answered0 _ rfl hc.1
  | getOutput m => exact effect_onChannel rfl (fun c hc hx => by cases hx; exact .answered _ _ rfl hc.1) h
  | setDuty m =>
    refine effect_onChannel rfl (fun c hc => effect_withArg rfl fun v hv hx => ?_) h
    have hn := dutyStatus_pct (c := c) hv
    simp only at hx
    split at hx
    · cases hx; exact .setDuty v hc hn
    · rename_i hk
      cases hx
      have := Effect.setDuty (s := s) v hc hn
      rwa [Decidable.not_not.mp hk] at this
  | enable m => exact effect_onChannel rfl (fun c hc hx => by cases hx; exact .enable hc) h
  | disable m => exact effect_onChannel rfl (fun c hc hx => by cases hx; exact .disable hc) h
  | drift m => exact effect_onChannel rfl (fun c hc hx => by cases hx; exact .drift hc) h
  | getMotor m => exact effect_onChannel rfl (fun c hc hx => by cases hx; exact .answered0 _ rfl hc.1) h
  | enqueue m =>
    refine effect_onChannel rfl (fun c hc => effect_withArg rfl fun act _ => effect_withArg rfl fun pwr hp =>
      effect_withArg rfl fun dur _ hx => ?_) h
    split at hx
    · exact effect_raise rfl (by decide) (by decide) hx
    · cases hx; exact .enqueue act dur hc (readPctU_le hp) (by omega)
  | stop m => exact effect_onChannel rfl (fun c hc hx => by cases hx; exact .stop hc) h
  | queueStatus m =>
    refine effect_onChannel rfl (fun c hc hx => ?_) h
    simp only at hx
    split at hx <;> cases hx <;> exact .answered _ _ rfl hc.1
  | queuePeek m =>
    exact effect_onChannel rfl
      (fun c hc => effect_withArg rfl fun e _ hx => by cases hx; exact .answered _ _ rfl hc.1) h
  | getFlags m => exact effect_onChannel rfl (fun c hc hx => by cases hx; exact .answered0 _ rfl hc.1) h
  | clearFlags m =>
    exact effect_onChannel rfl
      (fun c hc => effect_withArg rfl fun mask _ hx => by cases hx; exact .clearFlags mask hc) h
  | evPhase m a b =>
    obtain ⟨c, hc, _, hx⟩ := onEvent_next.mp h
    cases hx; exact .evPhase a b hc
  | evEdge m =>
    obtain ⟨c, hc, he, hx⟩ := onEvent_next.mp h
    simp only [edgeEnabled, Bool.and_eq_true, Bool.not_eq_true'] at he
    cases hx; exact .evEdge ⟨he.2, hc⟩ he.1
  | evVtick m =>
    obtain ⟨c, hc, he, hx⟩ := onEvent_next.mp h
    simp only [vtickEnabled, Bool.and_eq_true, Bool.not_eq_true', decide_eq_true_eq] at he
    cases hx; exact .evVtick ⟨he.2, hc⟩ he.1
  | evPtick m =>
    obtain ⟨c, hc, he, hx⟩ := onEvent_next.mp h
    simp only [ptickEnabled, Bool.and_eq_true, Bool.not_eq_true', decide_eq_true_eq] at he
    cases hx; exact .evPtick ⟨he.2, hc⟩ he.1.1 he.1.2
  | evAlarm =>
    simp only [exec, execEvAlarm] at h
    split at h
    · rename_i he
      simp only [alarmEnabled, Bool.and_eq_true, Bool.not_eq_true', decide_eq_true_eq] at he
      cases h; exact .evAlarm he.2 he.1.1 he.1.2
    · cases h
  | evTime d =>
    simp only [exec, execEvTime] at h
    split at h
    · rename_i he
      have hd := of_decide_eq_true he
      cases h; exact .evTime hd.1 hd.2
    · cases h
  | evReset => cases h; exact .evReset

end Sys2Proof.Machine
end

