-- ==== Sys2Proof/Laws/Frames.lean ====
section
/-! SUPPORT. Which registers of a channel the shared operations can write, and how a property of every channel passes
through a write to one channel, through DISPATCH and through the reset. -/

namespace Sys2Proof.Machine

/-- SET_DUTY_CORE writes the direction, the magnitude and the last direction, and nothing else. -/
theorem setDutyCore_frame (m : Nat) (v : Int) (src : Source) (c : Channel) :
    ∃ a b p l, (setDutyCore m v src c).chan = { c with dirA := a, dirB := b, pwm := p, lastDir := l } := by
  rw [setDutyCore_chan]
  split
  · exact ⟨_, _, _, _, rfl⟩
  · exact ⟨c.dirA, c.dirB, c.pwm, c.lastDir, rfl⟩

/-- PID_STEP writes the PID's working registers, what SET_DUTY_CORE writes, and the flags. -/
theorem pidStep_frame (now : U64) (m : Nat) (c : Channel) :
    ∃ a b p l f, (pidStep now m c).chan =
      { c with
        pidInt := q64 (pidI c), pidOut := q64 (pidOutput c), pidPerr := q64 (pidError c), pidMeas := c.vel,
        pidLast := now, pidSeed := false, dirA := a, dirB := b, pwm := p, lastDir := l, flags := f } := by
  obtain ⟨a, b, p, l, h⟩ := setDutyCore_frame m (tdiv (pidOutput c) (2 ^ 32)) .pid (pidUpdate now c)
  unfold pidStep
  simp only
  split
  · exact ⟨_, _, _, _, _, by simp only [h, Channel.setFlag]; rfl⟩
  · exact ⟨_, _, _, _, _, by rw [h]; rfl⟩

/-- DISPATCH writes on each channel the queue, what SET_DUTY_CORE writes, and the flags. -/
theorem dispatchHead_frame (now : U64) (m : Nat) (c : Channel) :
    ∃ a b p l q f, (dispatchHead now m c).chan =
      { c with dirA := a, dirB := b, pwm := p, lastDir := l, q := q, flags := f } := by
  unfold dispatchHead
  obtain ⟨q, hc⟩ : ∃ q, completeHead now c = { c with q := q } := by
    rcases completeHead_cases now c with h | ⟨e, es, _, _, _, h⟩ <;> rw [h]
    · exact ⟨_, rfl⟩
    · exact ⟨_, rfl⟩
  rw [hc]
  rcases startHead_cases now m { c with q := q } with ⟨h, _⟩ | ⟨e, es, _, _, h⟩ <;> rw [h]
  · exact ⟨_, _, _, _, _, _, rfl⟩
  · obtain ⟨a, b, p, l, hd⟩ := setDutyCore_frame m (spow e) .sched { c with q := q }
    exact ⟨_, _, _, _, _, _, by simp only [hd]; rfl⟩

/-- A write to channel `m` leaves the others. -/
theorem setChan_other (s : State) {m k : Nat} (c : Channel) (h : k ≠ m) : (s.setChan m c).chans[k]? = s.chans[k]? :=
  List.getElem?_set_ne (Ne.symm h)

/-- A write to a channel that exists is read back. -/
theorem setChan_self {s : State} {m : Nat} {c : Channel} (h : s.chans[m]? = some c) (c' : Channel) :
    (s.setChan m c').chans[m]? = some c' :=
  List.getElem?_set_self (List.getElem?_eq_some_iff.mp h).1

/-- What a write to a channel keeps of it, it keeps of all the channels together. -/
theorem setChan_map {α : Type} {f : Channel → α} {s : State} {m : Nat} {c c' : Channel} (h : s.chans[m]? = some c)
    (hf : f c' = f c) : (s.setChan m c').chans.map f = s.chans.map f := by
  obtain ⟨hm, rfl⟩ := List.getElem?_eq_some_iff.mp h
  apply List.ext_getElem?
  intro i
  by_cases hi : m = i
  · subst hi; simp [State.setChan, hm, hf]
  · simp [State.setChan, List.getElem?_set_ne hi]

theorem eachChannel_set {p : Channel → Prop} {s : State} {m : Nat} {c' : Channel} (hs : EachChannel p s) (hc : p c') :
    EachChannel p (s.setChan m c') := by
  intro c h
  rcases List.mem_or_eq_of_mem_set h with h | h
  · exact hs c h
  · exact h ▸ hc

theorem eachChannel_dispatch {p : Channel → Prop} {s : State}
    (hd : ∀ m c, p c → p (dispatchHead s.now m c).chan) (hs : EachChannel p s) : EachChannel p (dispatch s) := by
  intro c h
  obtain ⟨m, c0, _, hc, rfl⟩ := mem_dispatch h
  exact hd m c0 (hs c0 hc)

theorem eachChannel_reset {p : Channel → Prop} {s : State} (hp : ∀ c ∈ s.chans, p c.resetRegs) :
    EachChannel p (resetBlock s) := by
  intro c h
  simp only [resetBlock, List.mem_map] at h
  obtain ⟨c0, hc, rfl⟩ := h
  exact hp c0 hc

/-- DISPATCH only appends to the log. -/
theorem dispatch_outlog (s : State) : ∃ es, (dispatch s).outlog = s.outlog ++ es := ⟨_, by rw [dispatch_eq]⟩

end Sys2Proof.Machine
end

