-- ==== Sys2Proof/Laws/Memory.lean ====
section
/-! SUPPORT. The window is the only memory of the block: its cells are in canonical form in every state, after every
access to it too, and what is written to an ARG slot is read back and nothing else changes. -/

namespace Sys2Proof.Machine

theorem slotAt_some {off : Nat} {slot : Slot} (h : slotAt off = some slot) : off % 8 = 0 ∧ off < 0x38 := by
  unfold slotAt at h
  repeat' (split at h)
  all_goals first | omega | simp at h

/-- Every one of the 56 bytes of the window can be read. -/
theorem readByte_isSome (s : State) {k : Nat} (h : k < 56) : (s.readByte (s.params.windowBase + k)).isSome = true := by
  have h8 : k / 8 * 8 = 0x00 ∨ k / 8 * 8 = 0x08 ∨ k / 8 * 8 = 0x10 ∨ k / 8 * 8 = 0x18 ∨ k / 8 * 8 = 0x20 ∨
      k / 8 * 8 = 0x28 ∨ k / 8 * 8 = 0x30 := by omega
  unfold State.readByte
  simp only [Nat.le_add_right, ↓reduceIte, Nat.add_sub_cancel_left, Option.isSome_map]
  rcases h8 with h | h | h | h | h | h | h <;> rw [h] <;> rfl

/-- The cells of the window stand at rising addresses, whatever the state: so after a MemRead and a MemWrite, after every
instruction, and at reset. -/
theorem windowCells_wf (s : State) : Memory.wf s.windowCells = true := by
  unfold Memory.wf State.windowCells
  apply decide_eq_true
  rw [List.pairwise_map, List.pairwise_filterMap]
  refine List.pairwise_lt_range.imp ?_
  intro a b hab x hx y hy
  simp only [Option.map_eq_some_iff] at hx hy
  obtain ⟨_, _, rfl⟩ := hx
  obtain ⟨_, _, rfl⟩ := hy
  show s.params.windowBase + a < s.params.windowBase + b
  omega

theorem reset_memory_wf : Memory.wf State.reset.windowCells = true := windowCells_wf _

/-- An access reaches a slot exactly when it is 8 bytes wide and at the slot's offset from the base. -/
theorem admittedSlot_some {base addr width : Nat} {slot : Slot} :
    admittedSlot base addr width = some slot ↔ (width = 8 ∧ base ≤ addr) ∧ slotAt (addr - base) = some slot := by
  unfold admittedSlot
  split <;> simp_all

/-- A write to a slot changes what that slot reads as, if it is an ARG slot, and what no other slot reads as. -/
theorem readSlot_writeSlot (s : State) (v : U64) (a b : Slot) :
    (s.writeSlot v a).readSlot b =
      if a = b ∧ (a = .arg0 ∨ a = .arg1 ∨ a = .arg2) then v else s.readSlot b := by
  cases a <;> cases b <;> simp [State.writeSlot, State.readSlot]

/-- A read of the window changes no byte of it. -/
theorem hostRead_readByte {addr width : Nat} {s t : State} (h : hostRead addr width s = .next t) (a : Nat) :
    t.readByte a = s.readByte a := by
  unfold hostRead at h
  split at h
  · simp at h
  · simp only [Host.Outcome.next.injEq] at h
    subst h
    unfold State.readByte
    split
    · congr 1
    · rfl

end Sys2Proof.Machine
end

