-- ==== Sys2Proof/Machine/Assembler.lean ====
section
/-! DEFINITION. The notation of programs (R111 to R114): how a line of text stands for the moves of the host and the
environment. The machine never reads text; a line is turned into moves and put on the agenda. DESIGN CHOICE (log
entry 14; safe): which texts are no line, a motor id of 16 or more among them. -/

namespace Sys2Proof.Machine

/-- The operand types of a command line (R104, R112). -/
inductive ArgType where
  | u32
  | pos32
  | q
  | pctS
  | pctU
  | enum2
  | enum3
  | idx
  | mask3
deriving DecidableEq, Repr

/-- One line of a program (R111, R113). -/
inductive Line where
  /-- a command and the operands written, for ARG0 on -/
  | command (i : Instr) (ops : List U64)
  /-- an event -/
  | event (i : Instr)
  /-- `@CW mK` -/
  | cw (m : Nat)
  /-- `@CCW mK` -/
  | ccw (m : Nat)
deriving DecidableEq, Repr

/-! ## Text -/

/-- The pieces of a text between the characters `p` holds of. -/
def splitChars (p : Char → Bool) : List Char → List (List Char)
  | [] => [[]]
  | c :: cs =>
    match splitChars p cs with
    | [] => [[c]]
    | w :: ws => if p c then [] :: w :: ws else (c :: w) :: ws

/-- The tokens of a line: `;` starts a comment, blanks and commas separate (R111). -/
def tokens (line : List Char) : List (List Char) :=
  (splitChars (fun c => c == ' ' || c == ',') (line.takeWhile (· != ';'))).filter fun w => !w.isEmpty

/-- The value of a digit in a base up to 16. -/
def digitVal (base : Nat) (c : Char) : Option Nat :=
  let n := c.toNat
  let v :=
    if 48 ≤ n ∧ n ≤ 57 then n - 48
    else if 65 ≤ n ∧ n ≤ 70 then n - 55
    else if 97 ≤ n ∧ n ≤ 102 then n - 87
    else 16
  if v < base then some v else none

/-- The number of a digit string, most significant digit first, after the digits read so far. -/
def digitsFrom (base : Nat) : Nat → List Char → Option Nat
  | acc, [] => some acc
  | acc, c :: cs => (digitVal base c).bind fun v => digitsFrom base (acc * base + v) cs

/-- A nonempty digit string. -/
def parseDigits (base : Nat) (cs : List Char) : Option Nat :=
  if cs.isEmpty then none else digitsFrom base 0 cs

/-- An unsigned integer, decimal or `0x` hexadecimal (R112). -/
def parseUnsigned (cs : List Char) : Option Nat :=
  match cs with
  | '0' :: 'x' :: ds => parseDigits 16 ds
  | ds => parseDigits 10 ds

/-- An unsigned integer that an ARG register holds. -/
def unsignedPattern (cs : List Char) : Option U64 :=
  (parseUnsigned cs).bind fun n => if n < 2 ^ 64 then some (BitVec.ofNat 64 n) else none

/-- The two's-complement pattern of an integer in the s64 range; none outside it (R112). -/
def signedPattern (neg : Bool) (n : Nat) : Option U64 :=
  let x : Int := if neg then -(n : Int) else n
  if -2 ^ 63 ≤ x ∧ x < 2 ^ 63 then some (BitVec.ofInt 64 x) else none

/-- The sign of a literal and the rest of it. -/
def splitSign (cs : List Char) : Bool × List Char :=
  match cs with
  | '-' :: ds => (true, ds)
  | ds => (false, ds)

/-- A signed decimal integer (R112). -/
def signedDecimal (cs : List Char) : Option U64 :=
  (parseDigits 10 (splitSign cs).2).bind (signedPattern (splitSign cs).1)

/-- The magnitude of `round(x * 2^32)` for the decimal number with the given digits before and after its point, to
nearest with ties away from zero (R112). -/
def roundQ (whole frac : List Char) : Option Nat :=
  (parseDigits 10 (whole ++ frac)).map fun n =>
    let den := 10 ^ frac.length
    (2 * n * 2 ^ 32 + den) / (2 * den)

/-- A `Q` operand: `#` and a raw pattern, or a decimal number with an optional fraction (R112). -/
def parseQ (cs : List Char) : Option U64 :=
  match cs with
  | '#' :: ds => unsignedPattern ds
  | ds =>
    match splitChars (· == '.') (splitSign ds).2 with
    | [w] => (roundQ w []).bind (signedPattern (splitSign ds).1)
    | [w, f] => if w.isEmpty || f.isEmpty then none else (roundQ w f).bind (signedPattern (splitSign ds).1)
    | _ => none

/-- The names of `ENUM2` and `ENUM3` values (R112). -/
def enumNames : ArgType → List (String × U64)
  | .enum2 => [("MANUAL", 0), ("AUTO", 1), ("AUTOMATIC", 1)]
  | .enum3 => [("IDLE", 0), ("FWD", 1), ("FORWARD", 1), ("REV", 2), ("REVERSE", 2)]
  | _ => []

/-- The entry of a table under a token. -/
def lookupName {α : Type} (t : List (String × α)) (cs : List Char) : Option α :=
  (t.find? fun x => x.1.toList == cs).map (·.2)

/-- The 64-bit pattern of one operand (R112). -/
def parseOperand (t : ArgType) (cs : List Char) : Option U64 :=
  match t with
  | .q => parseQ cs
  | .pctS => signedDecimal cs
  | .enum2 | .enum3 => (lookupName (enumNames t) cs).or (unsignedPattern cs)
  | .u32 | .pos32 | .pctU | .idx | .mask3 => unsignedPattern cs

/-- The operands of a line against the types of its command; fewer may be written, more may not (R111). -/
def parseOperands : List ArgType → List (List Char) → Option (List U64)
  | _, [] => some []
  | [], _ :: _ => none
  | t :: ts, w :: ws => (parseOperand t w).bind fun v => (parseOperands ts ws).map (v :: ·)

/-- `mK`, with K in decimal (R111). DESIGN CHOICE (log entry 14; safe): a K of 16 or more is no motor id, so its line is
no line. R111 sets no bound on K, and no word holds such a K: MOTOR has four bits (R101). -/
def parseMotor (cs : List Char) : Option Nat :=
  match cs with
  | 'm' :: ds => (parseDigits 10 ds).bind fun k => if k < 16 then some k else none
  | _ => none

/-! ## Names -/

/-- The global commands and their names (R106). -/
def globalNames : List (String × Instr) := [("NOP", .nop), ("GET_ALARM", .getAlarm), ("GET_TIME", .getTime)]

/-- A channel command: its constructor and its operand types. -/
structure CommandForm where
  form : Nat → Instr
  args : List ArgType

/-- The encoder and sampler commands, their names and operand types (R106). -/
def encoderNames : List (String × CommandForm) :=
  [("ED_RESET", ⟨.edReset, []⟩), ("ED_GETCOUNT", ⟨.edGetcount, []⟩), ("GET_POSITION", ⟨.getPosition, []⟩),
   ("ED_GETDIAG", ⟨.edGetdiag, []⟩), ("CALIBRATE", ⟨.calibrate, [.pos32, .q]⟩),
   ("GET_CALIBRATION", ⟨.getCalibration, []⟩), ("GET_VELOCITY", ⟨.getVelocity, []⟩),
   ("SET_VEL_PERIOD", ⟨.setVelPeriod, [.pos32]⟩), ("GET_VEL_PERIOD", ⟨.getVelPeriod, []⟩)]

/-- The PID commands (R106). -/
def pidNames : List (String × CommandForm) :=
  [("SET_TARGET", ⟨.setTarget, [.q]⟩), ("SET_TUNINGS", ⟨.setTunings, [.q, .q, .q]⟩),
   ("SET_MODE", ⟨.setMode, [.enum2]⟩), ("SET_INTERVAL", ⟨.setInterval, [.pos32]⟩),
   ("SET_LIMITS", ⟨.setLimits, [.q, .q]⟩), ("SET_OUTPUT", ⟨.setOutput, [.q]⟩), ("COMPUTE", ⟨.compute, []⟩),
   ("GET_OUTPUT", ⟨.getOutput, []⟩)]

/-- The motor, scheduler and flag commands (R106). -/
def motorNames : List (String × CommandForm) :=
  [("SET_DUTY", ⟨.setDuty, [.pctS]⟩), ("ENABLE", ⟨.enable, []⟩), ("DISABLE", ⟨.disable, []⟩),
   ("DRIFT", ⟨.drift, []⟩), ("GET_MOTOR", ⟨.getMotor, []⟩), ("ENQUEUE", ⟨.enqueue, [.enum3, .pctU, .u32]⟩),
   ("STOP", ⟨.stop, []⟩), ("QUEUE_STATUS", ⟨.queueStatus, []⟩), ("QUEUE_PEEK", ⟨.queuePeek, [.idx]⟩),
   ("GET_FLAGS", ⟨.getFlags, []⟩), ("CLEAR_FLAGS", ⟨.clearFlags, [.mask3]⟩)]

/-- The channel commands. -/
def channelNames : List (String × CommandForm) := encoderNames ++ pidNames ++ motorNames

/-- A pseudo-instruction for a command (R113): the command, the operands that come before the written ones and the
types of the written ones. -/
structure PseudoForm where
  form : Nat → Instr
  before : List U64
  args : List ArgType

/-- The pseudo-instructions that stand for commands (R113). -/
def pseudoNames : List (String × PseudoForm) :=
  [("FWD", ⟨.enqueue, [1], [.pctU, .u32]⟩), ("REV", ⟨.enqueue, [2], [.pctU, .u32]⟩),
   ("IDLE", ⟨.enqueue, [0, 0], [.u32]⟩), ("AUTO", ⟨.setMode, [1], []⟩), ("MANUAL", ⟨.setMode, [0], []⟩),
   ("COAST", ⟨.drift, [], []⟩), ("CLRF", ⟨.clearFlags, [7], []⟩)]

/-- A line for a channel: its mnemonic, the channel and the operands. -/
def parseChannelLine (name : List Char) (m : Nat) (ws : List (List Char)) : Option Line :=
  match lookupName channelNames name, lookupName pseudoNames name with
  | some f, _ => (parseOperands f.args ws).map fun vs => .command (f.form m) vs
  | none, some p => (parseOperands p.args ws).map fun vs => .command (p.form m) (p.before ++ vs)
  | none, none => none

/-- A level operand of `@PHASE`. -/
def parseLevel (cs : List Char) : Option Bool :=
  match cs with
  | ['0'] => some false
  | ['1'] => some true
  | _ => none

/-- The event lines that name a channel and nothing else (R111, R113). -/
def channelEventNames : List (String × (Nat → Line)) :=
  [("@EDGE", fun m => .event (.evEdge m)), ("@VTICK", fun m => .event (.evVtick m)),
   ("@PTICK", fun m => .event (.evPtick m)), ("@CW", .cw), ("@CCW", .ccw)]

/-- The event lines without operands. -/
def globalEventNames : List (String × Instr) := [("@ALARM", .evAlarm), ("@RESET", .evReset)]

/-- The names of the time advance (R111, R113). -/
def timeNames : List (String × Unit) := [("@TIME", ()), ("@WAIT", ())]

/-- The tokens of one line as a `Line` (R111, R113). -/
def parseTokens (ws : List (List Char)) : Option Line :=
  match ws with
  | [] => none
  | [name] =>
    ((lookupName globalNames name).map fun i => Line.command i []).or
      ((lookupName globalEventNames name).map Line.event)
  | [name, x] =>
    match parseMotor x with
    | some m => ((lookupName channelEventNames name).map fun f => f m).or (parseChannelLine name m [])
    | none =>
      (lookupName timeNames name).bind fun _ =>
        (unsignedPattern x).map fun d => .event (.evTime d.toNat)
  | name :: x :: rest =>
    (parseMotor x).bind fun m =>
      if name = "@PHASE".toList then
        match rest with
        | [a, b] => (parseLevel a).bind fun la => (parseLevel b).map fun lb => .event (.evPhase m la lb)
        | _ => none
      else parseChannelLine name m rest

/-- One line of text. -/
def parseLine (text : List Char) : Option Line := parseTokens (tokens text)

/-! ## Moves -/

/-- The writes of the operands to ARG0 on, 8 bytes apart from `off` (R111). -/
def operandWrites (base : Nat) : Nat → List U64 → List Move
  | _, [] => []
  | off, v :: vs => .hostWrite (base + off) 8 v :: operandWrites base (off + 8) vs

/-- EV_PHASE to the successor of the current levels, then EV_EDGE (R113). DESIGN CHOICE (log entry 14; safe): a channel
that does not exist has no levels, and the line stands for the two events with levels 0, neither of which has a step
(log entry 5). -/
def turnInstrs (s : State) (next : Quad → Quad) (m : Nat) : List Instr :=
  match s.chans[m]? with
  | none => [.evPhase m false false, .evEdge m]
  | some c =>
    let n := next (quad c.qa c.qb)
    [.evPhase m (n.getLsbD 1) (n.getLsbD 0), .evEdge m]

/-- The instructions of a line in the state it stands at; `@CW` and `@CCW` look at the input levels (R113). -/
def Line.instrs (s : State) : Line → List Instr
  | .command i _ => [i]
  | .event i => [i]
  | .cw m => turnInstrs s cwNext m
  | .ccw m => turnInstrs s ccwNext m

/-- The operands a line writes. -/
def Line.operands : Line → List U64
  | .command _ ops => ops
  | .event _ | .cw _ | .ccw _ => []

/-- The moves of a line: the operands, then the command; or the events. A line that was read holds a well-formed
instruction, so no bit of its channel is cut. -/
def Line.moves (s : State) (l : Line) : List Move :=
  operandWrites s.params.windowBase 0x08 l.operands ++ (l.instrs s).map (moveOf s.params.windowBase)

/-- The state with the moves of a line waiting last. `@CW` and `@CCW` look at the levels of this state, so it is meant
for the point of the trace at which the line stands, with no earlier move still waiting (R113). -/
def State.schedule (l : Line) (s : State) : State := { s with agenda := s.agenda ++ l.moves s }

/-- The digits of a number, `k` hexadecimal digits wide (R114). -/
def hexDigits : Nat → Nat → List Char
  | 0, _ => []
  | k + 1, n => hexDigits k (n / 16) ++ ["0123456789ABCDEF".toList.getD (n % 16) '0']

/-- The words of a line as 8 hex digits, and its operands and the ARG0 of a record as 16 hex digits each (R114). -/
def Line.encoding (s : State) (l : Line) : List (List Char) :=
  ((l.instrs s).flatMap fun i =>
    hexDigits 8 (encodeWord i).toNat ::
      (match i with
      | .evTime d => [hexDigits 16 d]
      | _ => [])) ++
    l.operands.map fun v => hexDigits 16 v.toNat

end Sys2Proof.Machine
end

