-- ==== Sys2Proof/Tests/Slice0.lean ====
section
/-! SUPPORT. The model's own tests. Every expected value comes from spec/: from the example of the rule named, or from the
vector of 95_test_vectors.md named. After them, for each statement with hypotheses, a concrete case that meets them. -/

namespace Sys2Proof.Tests

open Sys2Proof Sys2Proof.Machine

/-! ## Helpers -/

/-- What is seen of the next state, if there is one. -/
def see {α : Type} (r : Result) (f : State → α) : Option α :=
  match r with
  | .next t => some (f t)
  | _ => none

/-- The fault, if there is one. -/
def faultOf (r : Result) : Option Fault :=
  match r with
  | .fault e => some e
  | _ => none

theorem next_of_see {r : Result} {t : State} (h : see r id = some t) : r = .next t := by
  cases r <;> simp_all [see]

/-- A channel at reset, levels 0. -/
abbrev chan : Channel := Channel.powerOn Config.defaultChannel false false

/-- Reset with channel 0 replaced. -/
abbrev on0 (c : Channel) : State := { State.reset with chans := [c, chan] }

/-- Reset with channel 0 replaced and the three operand registers written. -/
abbrev withArgs (c : Channel) (a b d : U64) : State := { on0 c with arg0 := a, arg1 := b, arg2 := d }

/-- Channel 0 enabled and driving 50 percent forward: the start of the example of R244. -/
abbrev forward50 : Channel := { chan with en := true, dirA := true, pwm := 50 }

/-- Channel 0 of vector P1: the gains 0.5, 2.0, 0.05, setpoint 100, velocity 60, AUTOMATIC, enabled. -/
abbrev pidChan : Channel :=
  { chan with
    en := true, pidKp := 0x80000000, pidKi := 0x200000000, pidKd := 0xCCCCCCD, pidSp := 0x6400000000,
    vel := 0x3C00000000, pidMode := .automatic }

/-- The first entry of the scenario of R278, PENDING. -/
abbrev entry1 : Entry := pendingEntry .forward 50 100000

/-- The same, RUNNING until 100000. -/
abbrev running1 : Entry := { entry1 with dl := 100000, run := true }

/-- The second entry of the scenario, PENDING. -/
abbrev entry2 : Entry := pendingEntry .reverse 30 50000

/-- Channel 0 of the scenario after both ENQUEUEs. -/
abbrev queueChan : Channel := { forward50 with q := [running1, entry2] }

/-- The scenario's state after both ENQUEUEs at time `t` (V2). -/
abbrev queueState (t : U64) : State :=
  { on0 queueChan with now := t, alarmArm := true, alarmAt := 100000, params := { Config.defaultParams with qcap := 3 } }

/-- A halted block: the capacity is 0, so the configuration is invalid (R372). -/
abbrev haltedState : State :=
  { State.reset with cfgHalt := true, params := { Config.defaultParams with qcap := 0 } }

/-- Reset with a CMD write of NOP as the next move, and what that step leaves. -/
abbrev nopReady : State := { State.reset with agenda := [.hostWrite 0 8 0] }

/-! ## Form -/

theorem test_motor_16_is_ill_formed : (Instr.setDuty 16).wellFormed = false ∧ (Instr.setDuty 15).wellFormed = true := by
  decide

theorem test_phase_motor_16_is_ill_formed : (Instr.evPhase 16 true true).wellFormed = false := by decide

theorem test_advance_2_64_is_ill_formed :
    (Instr.evTime (2 ^ 64)).wellFormed = false ∧ (Instr.evTime (2 ^ 64 - 1)).wellFormed = true := by decide

/-! ## Decoding: words written out from R101, R102, R106 and R110 -/

theorem test_decode_encoder :
    decodeWord 0x00000000#32 0 = .ok .nop ∧ decodeWord 0x01000000#32 0 = .ok (.edReset 0) ∧
    decodeWord 0x02100000#32 0 = .ok (.edGetcount 1) ∧ decodeWord 0x03000000#32 0 = .ok (.getPosition 0) ∧
    decodeWord 0x04F00000#32 0 = .ok (.edGetdiag 15) := by decide

theorem test_decode_sampler :
    decodeWord 0x10000000#32 0 = .ok (.calibrate 0) ∧ decodeWord 0x11000000#32 0 = .ok (.getCalibration 0) ∧
    decodeWord 0x12100000#32 0 = .ok (.getVelocity 1) ∧ decodeWord 0x13000000#32 0 = .ok (.setVelPeriod 0) ∧
    decodeWord 0x14200000#32 0 = .ok (.getVelPeriod 2) := by decide

theorem test_decode_pid :
    decodeWord 0x20000000#32 0 = .ok (.setTarget 0) ∧ decodeWord 0x21000000#32 0 = .ok (.setTunings 0) ∧
    decodeWord 0x22100000#32 0 = .ok (.setMode 1) ∧ decodeWord 0x23000000#32 0 = .ok (.setInterval 0) ∧
    decodeWord 0x24000000#32 0 = .ok (.setLimits 0) ∧ decodeWord 0x25000000#32 0 = .ok (.setOutput 0) ∧
    decodeWord 0x26800000#32 0 = .ok (.compute 8) ∧ decodeWord 0x27000000#32 0 = .ok (.getOutput 0) := by decide

theorem test_decode_motor :
    decodeWord 0x30000000#32 0 = .ok (.setDuty 0) ∧ decodeWord 0x31100000#32 0 = .ok (.enable 1) ∧
    decodeWord 0x32000000#32 0 = .ok (.disable 0) ∧ decodeWord 0x33000000#32 0 = .ok (.drift 0) ∧
    decodeWord 0x34000000#32 0 = .ok (.getMotor 0) := by decide

theorem test_decode_scheduler :
    decodeWord 0x40000000#32 0 = .ok (.enqueue 0) ∧ decodeWord 0x41000000#32 0 = .ok (.stop 0) ∧
    decodeWord 0x42000000#32 0 = .ok (.queueStatus 0) ∧ decodeWord 0x43100000#32 0 = .ok (.queuePeek 1) ∧
    decodeWord 0x44000000#32 0 = .ok .getAlarm := by decide

theorem test_decode_system :
    decodeWord 0x50000000#32 0 = .ok .getTime ∧ decodeWord 0x51000000#32 0 = .ok (.getFlags 0) ∧
    decodeWord 0x52100000#32 0 = .ok (.clearFlags 1) := by decide

theorem test_decode_events :
    decodeWord 0xE0000002#32 0 = .ok (.evPhase 0 true false) ∧ decodeWord 0xE0100001#32 0 = .ok (.evPhase 1 false true) ∧
    decodeWord 0xE1100000#32 0 = .ok (.evEdge 1) ∧ decodeWord 0xE2000000#32 0 = .ok (.evVtick 0) ∧
    decodeWord 0xE3000000#32 0 = .ok (.evPtick 0) ∧ decodeWord 0xE4000000#32 0 = .ok .evAlarm ∧
    decodeWord 0xE5000000#32 0x186A0 = .ok (.evTime 100000) ∧ decodeWord 0xE6000000#32 0 = .ok .evReset := by decide

theorem test_decode_reserved :
    decodeWord 0x05000000#32 0 = .error (.unassigned 0x05) ∧ decodeWord 0xE7000000#32 0 = .error (.unassigned 0xE7) ∧
    decodeWord 0x30000001#32 0 = .error .reservedBits ∧ decodeWord 0xE0000004#32 0 = .error .reservedBits ∧
    decodeWord 0x00100000#32 0 = .error .globalMotor ∧ decodeCommand 0xE6000000#32 = .error .eventCode := by decide

/-- The bytes of a word, its least significant byte first (R84), and the refusal of a record that is too short. -/
theorem test_decode_bytes :
    decode [0x02, 0x00, 0x10, 0xE0] = .ok (.evPhase 1 true false) ∧ decode [0x00, 0x00, 0x30] = .error .truncated ∧
    decode [0x00, 0x00, 0x00, 0xE5] = .error .truncated ∧
    decode [0x00, 0x00, 0x00, 0xE5, 0xA0, 0x86, 0x01, 0, 0, 0, 0, 0] = .ok (.evTime 100000) := by decide

theorem test_table_word :
    decodeTableWord 32 0x41100000 = some (.stop 1) ∧ decodeTableWord 32 0x45000000 = none ∧
    decodeTableWord 96 (0xE5000000 + 7 * 2 ^ 32) = some (.evTime 7) := by decide

/-- The example line of R114, a `Q` operand of R112 (V1) and the turn of R113 (E1). -/
theorem test_assembler_command :
    (parseLine "ENQUEUE m0, FWD, 50, 100000".toList).map (fun l => l.encoding State.reset) =
      some ["40000000".toList, "0000000000000001".toList, "0000000000000032".toList, "00000000000186A0".toList] := by
  decide

theorem test_assembler_fixed_point :
    (parseLine "CALIBRATE m0, 600, 152.4 ; wheel".toList).map (fun l => l.encoding State.reset) =
      some ["10000000".toList, "0000000000000258".toList, "0000009866666666".toList] := by
  decide

/-- Log entry 14: MOTOR has four bits, so `m15` is the last motor id. -/
theorem test_assembler_motor :
    (parseLine "ENABLE m15".toList).map (fun l => l.encoding State.reset) = some ["31F00000".toList] ∧
    parseLine "ENABLE m16".toList = none ∧ parseLine "@EDGE m16".toList = none := by decide

theorem test_assembler_turn :
    (parseLine "@CW m0".toList).map (fun l => l.encoding State.reset) =
      some ["E0000002".toList, "E1000000".toList] := by
  decide

/-! ## EdgeDecoder -/

/-- Example of R142. -/
theorem test_phase :
    see (exec (.evPhase 0 true false) State.reset) (fun t => t.chans.head?.map fun c => (c.qa, c.qb, c.edPend)) =
      some (some (true, false, true)) := by decide

/-- E14: the current levels set no pending edge. -/
theorem test_phase_same_levels :
    see (exec (.evPhase 0 false false) State.reset) (fun t => t.chans.head?.map (·.edPend)) = some (some false) := by
  decide

/-- Example of R144, at the wrap of E6. -/
theorem test_edge_wraps :
    see (exec (.evEdge 0) (on0 { chan with qa := true, edPend := true, edPos := 0x7FFFFFFF }))
        (fun t => t.chans.head?.map fun c => (c.edPos.toInt, c.edLast, c.edPend)) =
      some (some (-2 ^ 31, 2, false)) := by decide

/-- E10: a diagonal, with the counter at its largest value. -/
theorem test_edge_diagonal_saturates :
    see (exec (.evEdge 0)
          (on0 { chan with qa := true, qb := true, edPend := true, edPos := 5, diagCnt := 0xFFFFFFFF }))
        (fun t => t.chans.head?.map fun c => (c.edPos, c.edLast, c.diagCnt)) =
      some (some (5, 3, 0xFFFFFFFF)) := by decide

/-- Example of R148. -/
theorem test_ed_reset :
    see (exec (.edReset 0) (on0 { chan with qa := true, qb := true, edPend := true, edPos := -17, vPrevPos := 9 }))
        (fun t => (t.status, t.chans.head?.map fun c => (c.edPos, c.edLast, c.edPend, c.vPrevPos))) =
      some (.ok, some (0, 3, true, 0)) := by decide

/-- Example of R149. -/
theorem test_ed_getcount :
    see (exec (.edGetcount 0) (on0 { chan with edPos := -1 })) (fun t => t.result0) = some 0xFFFFFFFFFFFFFFFF := by
  decide

/-- Example of R150. -/
theorem test_get_position :
    see (exec (.getPosition 0) (on0 { chan with calDpp := 856807894, edPos := 2400 }))
        (fun t => (t.result0, t.result1)) = some (2056338945600, 2400) := by decide

/-- E12: a negative distance. -/
theorem test_get_position_negative :
    see (exec (.getPosition 0) (on0 { chan with calDpp := 856807894, edPos := -10 }))
        (fun t => (t.result0, t.result1)) = some (0xFFFFFFFE014D7DA4, 0xFFFFFFFFFFFFFFF6) := by decide

/-- Example of R151, with the edge pending (E7). -/
theorem test_ed_getdiag :
    see (exec (.edGetdiag 0) (on0 { chan with qa := true, qb := true, edPend := true, edLast := 3, diagCnt := 2 }))
        (fun t => (t.result0, t.result1)) = some (2, 0x1F) := by decide

/-! ## VelocitySampler and calibration -/

/-- Example of R171. -/
theorem test_vtick :
    see (exec (.evVtick 0) { on0 { chan with calDpp := 856807894, edPos := 2400 } with now := 5000000 })
        (fun t => t.chans.head?.map fun c => (c.vel, c.vPrevPos, c.vPrevT, c.vNext)) =
      some (some (411267789120, 2400, 5000000, 10000000)) := by decide

/-- VL5: no time elapsed. -/
theorem test_vtick_anomaly :
    see (exec (.evVtick 0)
          { on0 { chan with vPrevT := 5000000, vel := 123, edPos := 7 } with now := 5000000 })
        (fun t => t.chans.head?.map fun c => (c.vel, c.vPrevPos, c.vNext, c.flags)) =
      some (some (123, 0, 10000000, 1)) := by decide

/-- Example of R173. -/
theorem test_calibrate :
    see (exec (.calibrate 0) (withArgs chan 600 654553015910 0))
        (fun t => t.chans.head?.map fun c => (c.calPpr, c.calDiam, c.calDpp)) =
      some (some (600, 654553015910, 856807894)) := by decide

/-- VL7: the largest diameter. -/
theorem test_calibrate_largest :
    see (exec (.calibrate 0) (withArgs chan 1 0x7FFFFFFFFFFFFFFF 0)) (fun t => t.chans.head?.map (·.calDpp)) =
      some (some 0x6487ED511FFFFFFF) := by decide

/-- Example of R176. -/
theorem test_get_calibration :
    see (exec (.getCalibration 0) (on0 { chan with calPpr := 600, calDiam := 654553015910 }))
        (fun t => (t.result0, t.result1)) = some (600, 654553015910) := by decide

/-- Example of R177. -/
theorem test_get_velocity :
    see (exec (.getVelocity 0) (on0 { chan with vel := 411267789120 })) (fun t => t.result0) = some 411267789120 := by
  decide

/-- Example of R178, and its rejection in VL8. -/
theorem test_set_vel_period :
    see (exec (.setVelPeriod 0) { withArgs chan 20 0 0 with now := 1000 })
        (fun t => t.chans.head?.map fun c => (c.vPeriodMs, c.vNext)) = some (some (20, 21000)) ∧
    see (exec (.setVelPeriod 0) (withArgs chan 0 0 0)) (fun t => t.status) = some .invalidArgument := by decide

/-- Example of R179. -/
theorem test_get_vel_period :
    see (exec (.getVelPeriod 0) State.reset) (fun t => (t.result0, t.result1)) = some (5000, 5000000) := by decide

/-! ## PIDController -/

/-- Example of R210 (P1). -/
theorem test_ptick :
    see (exec (.evPtick 0) { on0 pidChan with now := 100000 })
        (fun t => (t.outlog, t.chans.head?.map fun c => (c.pidOut, c.pidInt, c.pidPerr))) =
      some ([.reset, .duty 0 48 .pid .ok, .pin 0 .dirA 1, .pin 0 .pwm 48],
        some (206158430288, 0x800000000, 0x2800000000)) := by decide

/-- P3: the seed step keeps the output. -/
theorem test_ptick_seeds :
    see (exec (.evPtick 0) { on0 { pidChan with pidSeed := true, pidOut := 0x1E00000000 } with now := 100000 })
        (fun t => t.chans.head?.map fun c => (c.pidOut, c.pidInt, c.pidSeed)) =
      some (some (0x1E00000000, 0xA00000000, false)) := by decide

/-- Example of R201. -/
theorem test_set_target :
    see (exec (.setTarget 0) (withArgs chan 0x6400000000 0 0)) (fun t => t.chans.head?.map (·.pidSp)) =
      some (some 429496729600) := by decide

/-- Example of R202. -/
theorem test_set_tunings :
    see (exec (.setTunings 0) (withArgs chan 0x80000000 0x200000000 0xCCCCCCD))
        (fun t => t.chans.head?.map fun c => (c.pidKp, c.pidKi, c.pidKd)) =
      some (some (2147483648, 8589934592, 214748365)) := by decide

/-- Example of R203, and the second request of P3. -/
theorem test_set_mode :
    see (exec (.setMode 0) (withArgs { chan with pidOut := 0x1E00000000 } 1 0 0))
        (fun t => t.chans.head?.map fun c => (c.pidMode, c.pidSeed, c.pidOut)) =
      some (some (.automatic, true, 0x1E00000000)) ∧
    see (exec (.setMode 0) (withArgs { chan with pidMode := .automatic } 1 0 0))
        (fun t => t.chans.head?.map (·.pidSeed)) = some (some false) := by decide

/-- Example of R204. -/
theorem test_set_interval :
    see (exec (.setInterval 0) (withArgs chan 50 0 0)) (fun t => t.chans.head?.map (·.pidTMs)) = some (some 50) := by
  decide

/-- P5: the limits clamp the output at once. -/
theorem test_set_limits :
    see (exec (.setLimits 0)
          (withArgs { chan with pidOut := 206158430288, pidInt := 0x800000000 } 0xFFFFFFEC00000000 0x1400000000 0))
        (fun t => t.chans.head?.map fun c => (c.pidOut, c.pidInt, c.pidMin)) =
      some (some (0x1400000000, 0x800000000, 0xFFFFFFEC00000000)) := by decide

/-- P5: equal limits are rejected. -/
theorem test_set_limits_equal :
    see (exec (.setLimits 0) (withArgs chan 0x500000000 0x500000000 0)) (fun t => t.status) =
      some .invalidArgument := by decide

/-- Example of R206, and its rejection in P7. -/
theorem test_set_output :
    see (exec (.setOutput 0) (withArgs chan 0x8200000000 0 0)) (fun t => t.chans.head?.map (·.pidOut)) =
      some (some 0x6400000000) ∧
    see (exec (.setOutput 0) (withArgs { chan with pidMode := .automatic } 0xA00000000 0 0)) (fun t => t.status) =
      some .invalidArgument := by decide

/-- P6: no step within the interval. -/
theorem test_compute_early :
    see (exec (.compute 0)
          { on0 { chan with pidMode := .automatic, pidLast := 100000, pidOut := 0x1E00000000 } with now := 150000 })
        (fun t => (t.result0, t.outlog)) = some (0x1E00000000, [.reset]) := by decide

/-- P6: the step on a disabled motor. -/
theorem test_compute_steps :
    see (exec (.compute 0)
          { on0 { chan with pidMode := .automatic, pidLast := 100000, pidOut := 0x1E00000000 } with now := 200000 })
        (fun t => (t.result0, t.outlog, t.chans.head?.map fun c => (c.flags, c.pidLast))) =
      some (0, [.reset, .duty 0 0 .pid .disabled], some (2, 200000)) := by decide

/-- Example of R208. -/
theorem test_get_output :
    see (exec (.getOutput 0) (on0 { chan with pidOut := 206158430288, pidInt := 34359738368 }))
        (fun t => (t.result0, t.result1)) = some (206158430288, 34359738368) := by decide

/-! ## MotorOutput -/

/-- Example of R243. -/
theorem test_set_duty :
    see (exec (.setDuty 0) (withArgs { chan with en := true } 75 0 0)) (fun t => t.outlog) =
      some [.reset, .duty 0 75 .host .ok, .pin 0 .dirA 1, .pin 0 .pwm 75] := by decide

/-- R243: a disabled motor is logged, a percent out of range is not. -/
theorem test_set_duty_rejected :
    see (exec (.setDuty 0) (withArgs chan 75 0 0)) (fun t => (t.status, t.outlog)) =
      some (.disabled, [.reset, .duty 0 75 .host .disabled]) ∧
    see (exec (.setDuty 0) (withArgs chan 101 0 0)) (fun t => (t.status, t.outlog)) =
      some (.invalidArgument, [.reset]) := by decide

/-- Example of R244. -/
theorem test_duty_core_turns :
    (setDutyCore 0 (-30) .sched forward50).log =
        [.duty 0 (-30) .sched .ok, .pin 0 .pwm 0, .pin 0 .dirA 0, .pin 0 .dirB 1, .pin 0 .pwm 30] ∧
      (setDutyCore 0 (-30) .sched forward50).chan.lastDir = true := by decide

/-- Example of R245. -/
theorem test_enable :
    see (exec (.enable 1) State.reset) (fun t => (t.outlog, t.chans.map (·.en))) =
      some ([.reset, .pin 1 .en 1], [false, true]) := by decide

/-- Example of R246. -/
theorem test_disable :
    see (exec (.disable 0) (on0 { chan with en := true, dirB := true, pwm := 30 })) (fun t => t.outlog) =
      some [.reset, .pin 0 .pwm 0, .pin 0 .dirB 0, .pin 0 .en 0] := by decide

/-- Example of R247. -/
theorem test_drift :
    see (exec (.drift 0) (on0 { chan with en := true, dirA := true, pwm := 40 }))
        (fun t => (t.outlog, t.chans.head?.map (·.pwm))) = some ([.reset, .pin 0 .dirA 0], some 40) := by decide

/-- Example of R248. -/
theorem test_get_motor :
    see (exec (.getMotor 0) (on0 { chan with en := true, dirB := true, lastDir := true, pwm := 30 }))
        (fun t => t.result0) = some 0x1E0D := by decide

/-! ## ActionScheduler -/

/-- V2, line 2. -/
theorem test_enqueue :
    see (exec (.enqueue 0) (withArgs { chan with en := true } 1 50 100000))
        (fun t => (t.outlog, t.alarmArm, t.alarmAt, t.chans.head?.map (·.q))) =
      some ([.reset, .duty 0 50 .sched .ok, .pin 0 .dirA 1, .pin 0 .pwm 50], true, 100000, some [running1]) := by
  decide

/-- The power is checked before the capacity (R333). -/
theorem test_enqueue_rejected :
    see (exec (.enqueue 0) (withArgs chan 1 101 0)) (fun t => t.status) = some .invalidArgument ∧
    see (exec (.enqueue 0) { withArgs queueChan 1 10 0 with params := { Config.defaultParams with qcap := 2 } })
        (fun t => t.status) = some .resourceExhausted := by decide

/-- Example of R278 (V2, line 8). -/
theorem test_alarm :
    see (exec .evAlarm (queueState 100000)) (fun t => (t.outlog, t.alarmAt)) =
      some ([.reset, .duty 0 (-30) .sched .ok, .pin 0 .pwm 0, .pin 0 .dirA 0, .pin 0 .dirB 1, .pin 0 .pwm 30],
        150000) := by decide

theorem test_alarm_early : faultOf (exec .evAlarm (queueState 99999)) = some .eventNotEnabled := by decide

/-- Example of R273. -/
theorem test_stop :
    see (exec (.stop 0)
          { on0 { chan with en := true, dirB := true, pwm := 30, lastDir := true, q := [entry2] } with now := 120000 })
        (fun t => (t.outlog, t.alarmAt, t.chans.head?.map (·.q))) =
      some ([.reset, .duty 0 0 .sched .ok, .pin 0 .pwm 0, .pin 0 .dirB 0, .pin 0 .dirA 1], 120000,
        some [{ act := .reverse, pwr := 0, dur := 0, dl := 120000, run := true }]) := by decide

/-- Example of R274. -/
theorem test_queue_status :
    see (exec (.queueStatus 0) (queueState 0)) (fun t => (t.result0, t.result1)) = some (0x102, 100000) := by decide

/-- Example of R275. -/
theorem test_queue_peek :
    see (exec (.queuePeek 0) { queueState 0 with arg0 := 1 }) (fun t => (t.result0, t.result1)) =
      some (0x0000C35000001E02, 0) ∧
    see (exec (.queuePeek 0) { queueState 0 with arg0 := 2 }) (fun t => t.status) = some .invalidArgument := by decide

/-- Example of R279. -/
theorem test_get_alarm :
    see (exec .getAlarm (queueState 0)) (fun t => (t.result0, t.result1)) = some (1, 100000) := by decide

/-! ## Time, flags, NOP, reset -/

/-- Example of R310, and its bound. -/
theorem test_time :
    see (exec (.evTime 100000) State.reset) (fun t => t.now) = some 100000 ∧
    faultOf (exec (.evTime 1) { State.reset with now := 0x7FFFFFFFFFFFFFFF }) = some .eventNotEnabled := by decide

/-- Example of R311. -/
theorem test_get_time :
    see (exec .getTime { State.reset with now := 100000 }) (fun t => t.result0) = some 100000 := by decide

/-- R312: NOP writes G.STATUS, and tells of the halt. -/
theorem test_nop :
    see (exec .nop { State.reset with status := .disabled }) (fun t => t.status) = some .ok ∧
    see (exec .nop haltedState) (fun t => t.status) = some .configurationError := by decide

/-- Example of R313. -/
theorem test_get_flags :
    see (exec (.getFlags 0) (on0 { chan with flags := 2 })) (fun t => t.result0) = some 2 := by decide

/-- Example of R314. -/
theorem test_clear_flags :
    see (exec (.clearFlags 0) (withArgs { chan with flags := 6 } 2 0 0)) (fun t => t.chans.head?.map (·.flags)) =
      some (some 4) := by decide

/-- R370: the levels and the log stay, the last state is the levels. -/
theorem test_reset :
    see (exec .evReset (on0 { forward50 with qa := true, q := [entry1], edPend := true }))
        (fun t => (t.outlog, t.chans.head?.map fun c => (c.qa, c.edLast, c.q.length))) =
      some ([.reset, .reset], some (true, 2, 0)) := by decide

/-- R372: a capacity of 0 halts the block. -/
theorem test_reset_invalid :
    see (exec .evReset { State.reset with params := { Config.defaultParams with qcap := 0 } }) (fun t => t.cfgHalt) =
      some true := by decide

/-! ## Steps -/

/-- R82: nonzero upper bits are reported before the halt (R333). -/
theorem test_upper_bits_first :
    see (commandWrite 0x100000000 haltedState) (fun t => t.status) = some .illegalCommand := by decide

/-- R85: a narrow access and a misaligned one have no step. -/
theorem test_window_refuses :
    faultOf (perform (.hostWrite 0 4 0) State.reset) = some .accessNotAdmitted ∧
    faultOf (perform (.hostRead 4 8) State.reset) = some .accessNotAdmitted ∧
    faultOf (perform (.hostRead 0x38 8) State.reset) = some .accessNotAdmitted := by decide

/-- The interface of the host: the instruction placed is the one the next step runs. -/
theorem test_fetch_word :
    see (step (State.reset.withFetchWord 32 0x31100000)) (fun t => t.outlog) = some [.reset, .pin 1 .en 1] ∧
    see (step (State.reset.withFetchWord 32 0xE0000002)) (fun t => t.chans.map (·.qa)) = some [true, false] ∧
    see (step (State.reset.withFetchWord 96 (0xE5000000 + 7 * 2 ^ 32))) (fun t => t.now) = some 7 := by decide

/-! ## Witnesses: for each statement with hypotheses a case that meets them, one for each of its clauses -/

theorem witness_DecodeOfEncodeIsIdentity :
    (Instr.evPhase 15 true false).wellFormed = true ∧ (Instr.evTime (2 ^ 64 - 1)).wellFormed = true ∧
    Instr.nop.wellFormed = true := by decide

theorem witness_DecodedWordIsTheEncodedWord :
    decodeWord 0xE0F00003#32 0 = .ok (.evPhase 15 true true) ∧ decodeWord 0xE5000000#32 9 = .ok (.evTime 9) := by
  decide

/-- The ends of each of the seven ranges. -/
theorem witness_ReservedAndEventOpcodesAreIllegal :
    (∀ op ∈ [0x05, 0x0F, 0x15, 0x1F, 0x28, 0x2F, 0x35, 0x3F, 0x45, 0x4F, 0x53, 0xDF, 0xE0, 0xFF],
      UpperClear (BitVec.ofNat 64 (op * 2 ^ 24)) ∧ (BitVec.ofNat 64 (op * 2 ^ 24)).toNat / 2 ^ 24 = op) ∧
    State.reset.cfgHalt = false := by decide

theorem witness_MalformedCommandWordsAreRejected :
    State.reset.cfgHalt = false ∧
    (UpperClear 0x30000001#64 ∧ (0x30000001#64).toNat % 2 ^ 20 ≠ 0) ∧
    (UpperClear 0x44100000#64 ∧ (0x44100000#64).toNat / 2 ^ 24 = 0x44 ∧ (0x44100000#64).toNat / 2 ^ 20 % 16 ≠ 0) ∧
    (UpperClear 0x52200000#64 ∧ (0x52200000#64).toNat % 2 ^ 20 = 0 ∧ (0x52200000#64).toNat / 2 ^ 24 = 0x52 ∧
      State.reset.chans.length ≤ (0x52200000#64).toNat / 2 ^ 20 % 16) := by decide

theorem witness_CommandChecksRunInOrder :
    ¬UpperClear 0x100000000#64 ∧ (UpperClear 0#64 ∧ haltedState.cfgHalt = true) ∧
    (UpperClear 0x05000000#64 ∧ State.reset.cfgHalt = false ∧
      decodeCommand ((0x05000000#64).setWidth 32) = .error (.unassigned 0x05)) ∧
    (UpperClear 0x30200000#64 ∧ decodeCommand ((0x30200000#64).setWidth 32) = .ok (.setDuty 2) ∧
      (Instr.setDuty 2).channel = some 2 ∧ State.reset.chans.length ≤ 2) := by decide

theorem witness_StepRunsTheDecodedCommand :
    nopReady.agenda = .hostWrite nopReady.params.windowBase 8 ((0x00000000#32).setWidth 64) :: [] ∧
    decodeCommand 0x00000000#32 = .ok .nop := by decide

theorem witness_StepRunsTheDecodedEvent :
    ({ State.reset with agenda := [.event 0xE5000000#32 7] } : State).agenda = .event 0xE5000000#32 7 :: [] ∧
    decodeWord 0xE5000000#32 7 = .ok (.evTime 7) ∧ (Instr.evTime 7).isEvent = true := by decide

theorem witness_IdleStepRunsAnEnabledInternalEvent :
    (State.reset.agenda = [] ∧ quiescent State.reset = true) ∧
    (({ State.reset with now := 5000000 } : State).agenda = [] ∧
      quiescent { State.reset with now := 5000000 } = false) := by decide

theorem witness_WindowAdmitsExactlyAlignedSlots :
    (∀ addr ∈ [0x00, 0x30], State.reset.params.windowBase ≤ addr ∧ (addr - State.reset.params.windowBase) % 8 = 0 ∧
      addr - State.reset.params.windowBase < 0x38) ∧
    ¬(0x38 - State.reset.params.windowBase < 0x38) ∧ ¬((0x2C - State.reset.params.windowBase) % 8 = 0) := by decide

/-- The codes of R330, and the code that a rejected SET_DUTY leaves to be read in STATUS. -/
theorem test_status_codes :
    [Status.ok, .invalidArgument, .resourceExhausted, .disabled, .configurationError, .illegalCommand].map
      (·.code.toNat) = [0, 1, 2, 3, 4, 5] ∧
    see (hostRead 0x20 8 { State.reset with status := .disabled }) (·.hostData) = some (some 3) := by decide

theorem witness_WindowBytesAreLittleEndian : slotAt 0x30 = some .result1 ∧ slotAt 0x00 = some .cmd ∧ 0 < 8 ∧ 7 < 8 := by
  decide

theorem witness_RejectionsRetainTheState :
    (commandWrite 0x05000000 State.reset = .next { State.reset with cmd := 0x05000000, status := .illegalCommand }) ∧
    commandWrite 0x30000000 State.reset =
      .next { State.reset with
        cmd := 0x30000000, status := .disabled, outlog := [.reset, .duty 0 0 .host .disabled] } ∧
    Status.illegalCommand ≠ .ok ∧ Status.disabled ≠ .ok :=
  ⟨next_of_see (by decide), next_of_see (by decide), by decide, by decide⟩

theorem witness_ConfigurationHaltFreezesTheBlock :
    haltedState.cfgHalt = true ∧ Instr.nop.isEvent = false ∧ 1 < haltedState.chans.length ∧
    haltedState.now.toNat + (2 ^ 63 - 1) ≤ 2 ^ 63 - 1 ∧ haltedState.configValid = false := by decide

theorem witness_PhaseEventSetsLevelsAndPendingEdge : State.reset.chans[1]? = some chan := by decide

/-- For each clause a last state and levels, on a channel whose edge is pending; and one with none pending. -/
theorem witness_EdgeEventCountsByTheTable :
    (∀ l : Quad, ∀ a b : Bool, Ready (on0 { chan with edPend := true, edLast := l, qa := a, qb := b }) 0
      { chan with edPend := true, edLast := l, qa := a, qb := b }) ∧
    (1#2, quad false false) ∈ [(0#2, 2#2), (2#2, 3#2), (3#2, 1#2), (1#2, 0#2)] ∧
    (0#2, quad false true) ∈ [(2#2, 0#2), (3#2, 2#2), (1#2, 3#2), (0#2, 1#2)] ∧
    3#2 = quad true true ∧ 1#2 ^^^ quad true false = 3#2 ∧
    (State.reset.chans[0]? = some chan ∧ chan.edPend = false) ∧
    (haltedState.chans[0]? = some chan ∧ haltedState.cfgHalt = true) := by decide

/-- The first channel and the last one; also what the statements about reads, settings, the motor and STOP need. -/
theorem witness_EdResetTakesTheLevelsAsBaseline : Ready State.reset 0 chan ∧ Ready State.reset 1 chan := by decide

theorem witness_EncoderReadsReturnCountDistanceAndDiagnostics :
    Ready (on0 { chan with edPos := -10, calDpp := 856807894 }) 0 { chan with edPos := -10, calDpp := 856807894 } := by
  decide

theorem witness_CountFollowsTheNetTurns :
    Ready State.reset 0 chan ∧ DecoderSound chan ∧ chan.edPend = false := by decide

theorem witness_nop_step : step nopReady = .next State.reset := next_of_see (by decide)

theorem witness_StepKeepsTheDecoderInStep :
    EachChannel DecoderSound nopReady ∧ step nopReady = .next State.reset := ⟨by decide, witness_nop_step⟩

/-- Due with time elapsed, due with none, not yet due, halted. -/
theorem witness_VelocityTickSamplesOrFlags :
    (Ready { State.reset with now := 5000000 } 0 chan ∧ chan.vNext.toNat ≤ (5000000#64).toNat ∧
      chan.vPrevT.toNat < (5000000#64).toNat) ∧
    (Ready { on0 { chan with vPrevT := 5000000 } with now := 5000000 } 0 { chan with vPrevT := 5000000 }) ∧
    (State.reset.chans[0]? = some chan ∧ State.reset.now.toNat < chan.vNext.toNat) ∧
    (haltedState.chans[0]? = some chan ∧ haltedState.cfgHalt = true) := by decide

theorem witness_EnabledTickHasElapsedTime :
    TimeSound { State.reset with now := 5000000 } ∧ ({ State.reset with now := 5000000 } : State).chans[0]? = some chan ∧
    exec (.evVtick 0) { State.reset with now := 5000000 } =
      .next { on0 { chan with vPrevT := 5000000, vNext := 10000000 } with now := 5000000 } :=
  ⟨by decide, by decide, next_of_see (by decide)⟩

theorem witness_CalibrateStoresAndComputes :
    (Ready (withArgs chan 0xFFFFFFFF 1 0) 0 chan ∧ 1 ≤ (0xFFFFFFFF#64).toNat ∧ (0xFFFFFFFF#64).toNat < 2 ^ 32 ∧
      0 < (1#64).toInt) ∧
    (Ready (withArgs chan 0 1 0) 0 chan ∧ (0#64).toNat = 0) ∧
    (Ready (withArgs chan 0x100000000 1 0) 0 chan ∧ 2 ^ 32 ≤ (0x100000000#64).toNat) ∧
    (Ready (withArgs chan 600 0 0) 0 chan ∧ (0#64).toInt ≤ 0) := by decide

theorem witness_CalibrationReadsBackExactly :
    Ready (withArgs chan 1 0x7FFFFFFFFFFFFFFF 0) 0 chan ∧ 1 ≤ (1#64).toNat ∧ (1#64).toNat < 2 ^ 32 ∧
    0 < (0x7FFFFFFFFFFFFFFF#64).toInt := by decide

theorem witness_SamplerReadsReturnTheirRegisters : Ready (on0 { chan with vel := 5 }) 0 { chan with vel := 5 } := by
  decide

theorem witness_PeriodCommandsSetTheirIntervals :
    Ready (withArgs chan 1 0 0) 0 chan ∧ Ready (withArgs chan 0xFFFFFFFF 0 0) 0 chan ∧
    Ready (withArgs chan 0 0 0) 0 chan ∧ Ready (withArgs chan 0x100000000 0 0) 0 chan := by decide

/-- Channel 0 of P1 with its two terms: the integrating step, its delivery accepted. -/
theorem witness_PidStepFollowsTheControlLaw_integrating :
    Ready { on0 pidChan with now := 100000 } 0 pidChan ∧ pidChan.pidMode = .automatic ∧
    ((100000#64).toNat : Int) - pidChan.pidLast.toNat ≥ (100 : Int) * 1000 ∧
    0x2800000000 = sat64 (pidChan.pidSp.toInt - pidChan.vel.toInt) ∧
    0x1400000000 = fxmul pidChan.pidKp.toInt 0x2800000000 ∧ pidChan.pidSeed = false ∧
    0x800000000 =
      clamp (sat64 (pidChan.pidInt.toInt +
        sat64 (tdiv (pidChan.pidKi.toInt * 0x2800000000 * 100) (2 ^ 32 * 1000)))) pidChan.pidMin.toInt
        pidChan.pidMax.toInt ∧
    85899346000 =
      sat64 (tdiv (pidChan.pidKd.toInt * sat64 (0x2800000000 - pidChan.pidPerr.toInt) * 1000) (2 ^ 32 * 100)) ∧
    206158430288 =
      clamp (sat64 (sat64 (0x1400000000 + 0x800000000) + 85899346000)) pidChan.pidMin.toInt pidChan.pidMax.toInt ∧
    48 = tdiv 206158430288 (2 ^ 32) ∧ DutyAccepted 48 pidChan := by decide

/-- The seed step of P3, on a disabled motor (P8): its delivery is rejected. -/
theorem witness_PidStepFollowsTheControlLaw_seeding :
    let c : Channel := { pidChan with pidSeed := true, pidOut := 0x1E00000000, en := false }
    Ready { on0 c with now := 100000 } 0 c ∧ c.pidSeed = true ∧
    0xA00000000 = sat64 (c.pidOut.toInt - 0x1400000000) ∧
    0x1E00000000 = clamp (sat64 (sat64 (0x1400000000 + 0xA00000000) + 0)) c.pidMin.toInt c.pidMax.toInt ∧
    30 = tdiv 0x1E00000000 (2 ^ 32) ∧ ¬DutyAccepted 30 c := by decide

theorem witness_ComputeIsIdleWhenNoStepIsDue :
    (Ready State.reset 0 chan ∧ chan.pidMode = .manual) ∧
    (Ready { on0 pidChan with now := 99999 } 0 pidChan ∧
      ((99999#64).toNat : Int) - pidChan.pidLast.toNat < (pidChan.pidTMs.toNat : Int) * 1000) := by decide

theorem witness_PidSettingsAreStoredAndRead : Ready (withArgs chan 1 2 3) 0 chan := by decide

theorem witness_SetModeSwitchesAndSeeds :
    (Ready (withArgs chan 1 0 0) 0 chan ∧ chan.pidMode = .manual) ∧
    (Ready (withArgs pidChan 1 0 0) 0 pidChan ∧ pidChan.pidMode = .automatic) ∧
    Ready (withArgs chan 0 0 0) 0 chan ∧ (Ready (withArgs chan 2 0 0) 0 chan ∧ 1 < (2#64).toNat) := by decide

/-- The widest limits and equal ones. -/
theorem witness_SetLimitsClampsAtOnce :
    Ready (withArgs chan 0xFFFFFF9C00000000 0x6400000000 0) 0 chan ∧
    (-100 * 2 ^ 32 ≤ (0xFFFFFF9C00000000#64).toInt ∧ (0xFFFFFF9C00000000#64).toInt < (0x6400000000#64).toInt ∧
      (0x6400000000#64).toInt ≤ 100 * 2 ^ 32) ∧
    ¬(-100 * 2 ^ 32 ≤ (0#64).toInt ∧ (0#64).toInt < (0#64).toInt ∧ (0#64).toInt ≤ 100 * 2 ^ 32) := by decide

theorem witness_SetOutputOnlyInManual :
    (Ready (withArgs chan 7 0 0) 0 chan ∧ chan.pidMode = .manual) ∧
    (Ready (withArgs pidChan 7 0 0) 0 pidChan ∧ pidChan.pidMode = .automatic) := by decide

/-- A channel in MANUAL with output 30 and the gains of P1. -/
abbrev seedChan : Channel := { pidChan with pidMode := .manual, pidOut := 0x1E00000000, vel := 0 }

/-- The state after its switch to AUTOMATIC, with a new setpoint of 80 and 100000 µs waiting to come. -/
abbrev switched : State :=
  { withArgs { seedChan with pidMode := .automatic, pidSeed := true } 1 0 0 with
    agenda := [.hostWrite 8 8 0x5000000000, .hostWrite 0 8 0x20000000, .event 0xE5000000 100000] }

/-- The channel when the first step is due. -/
abbrev retargeted : Channel :=
  { seedChan with pidMode := .automatic, pidSeed := true, pidSp := 0x5000000000 }

/-- The block when the first step is due. -/
abbrev stepDue : State := { withArgs retargeted 0x5000000000 0 0 with cmd := 0x20000000, now := 100000 }

theorem leavesTheSeed_write {s : State} {m : Nat} (h : stepInstr s = none) : LeavesTheSeed m s := by
  intro i hi; rw [h] at hi; cases hi

theorem leavesTheSeed_other {s : State} {m : Nat} {i : Instr} (h : stepInstr s = some i)
    (hi : i ∉ [.evPtick m, .setLimits m, .evReset, .setMode m, .compute m]) : LeavesTheSeed m s := by
  intro j hj
  rw [h] at hj
  cases hj
  simp only [List.mem_cons, List.not_mem_nil, or_false, not_or] at hi
  exact ⟨hi.1, hi.2.1, hi.2.2.1, fun e => absurd e hi.2.2.2.1, fun e => absurd e hi.2.2.2.2⟩

/-- SET_TARGET and a time advance between the switch and the first step. -/
theorem witness_beforeFirstPidStep : BeforeFirstPidStep 0 { switched with agenda := [] } stepDue := by
  have h0 : BeforeFirstPidStep 0 { switched with agenda := [] } switched := .chosen _ .switched
  have h1 := h0.stepped (leavesTheSeed_write (by decide))
    (next_of_see (t := { switched with arg0 := 0x5000000000, agenda := switched.agenda.tail }) (by decide))
  have h2 := h1.stepped (leavesTheSeed_other (i := .setTarget 0) (by decide) (by decide))
    (next_of_see (t := { stepDue with now := 0, agenda := [.event 0xE5000000 100000] }) (by decide))
  exact h2.stepped (leavesTheSeed_other (i := .evTime 100000) (by decide) (by decide)) (next_of_see (by decide))

/-- The first step at the first moment it is due, with an output of 30 and a proportional term of 40. -/
theorem witness_SwitchToAutomaticKeepsTheOutput :
    Ready (withArgs seedChan 1 0 0) 0 seedChan ∧ PidSound seedChan ∧ seedChan.pidMode = .manual ∧
    exec (.setMode 0) (withArgs seedChan 1 0 0) = .next { switched with agenda := [] } ∧
    BeforeFirstPidStep 0 { switched with agenda := [] } stepDue ∧ stepDue.chans[0]? = some retargeted ∧
    (stepDue.now.toNat : Int) - retargeted.pidLast.toNat = (retargeted.pidTMs.toNat : Int) * 1000 ∧
    0x2800000000 = fxmul retargeted.pidKp.toInt (sat64 (retargeted.pidSp.toInt - retargeted.vel.toInt)) ∧
    -2 ^ 63 ≤ seedChan.pidOut.toInt - 0x2800000000 ∧ seedChan.pidOut.toInt - 0x2800000000 < 2 ^ 63 :=
  ⟨by decide, by decide, by decide, next_of_see (by decide), witness_beforeFirstPidStep, by decide, by decide,
    by decide, by decide, by decide⟩

theorem witness_StepKeepsTheOutputWithinLimits :
    EachChannel PidSound nopReady ∧ step nopReady = .next State.reset := ⟨by decide, witness_nop_step⟩

/-- Just out of range on either side; in range and disabled; accepted at both ends of the range. -/
theorem witness_SetDutyCoreTurnsInOrder :
    (-101 : Int) < -100 ∧ (100 : Int) < 101 ∧ chan.en = false ∧ DutyAccepted (-100) forward50 ∧
    DutyAccepted 100 forward50 := by decide

theorem witness_SetDutySetsOrRejects :
    (Ready (withArgs chan 101 0 0) 0 chan ∧ 100 < (101#64).toInt) ∧
    (Ready (withArgs chan 0xFFFFFFFFFFFFFF9B 0 0) 0 chan ∧ (0xFFFFFFFFFFFFFF9B#64).toInt < -100) ∧
    (Ready (withArgs chan 100 0 0) 0 chan ∧ (100#64).toInt ≤ 100 ∧ chan.en = false) ∧
    (Ready (withArgs forward50 100 0 0) 0 forward50 ∧ DutyAccepted (100#64).toInt forward50) := by decide

theorem witness_EnableDisableAndDriftWriteTheirPins : Ready (on0 forward50) 0 forward50 := by decide

theorem witness_GetMotorPacksTheOutputs : Ready (on0 forward50) 0 forward50 := by decide

theorem witness_StepKeepsTheOutputStageSafe :
    EachChannel OutputsSound nopReady ∧ step nopReady = .next State.reset := ⟨by decide, witness_nop_step⟩

/-- In one block: a channel with a due running head and a PENDING entry after it, and one with an empty queue; a PENDING
head; a running head that is not due. -/
theorem witness_DispatchCompletesStartsAndArms :
    ((queueState 100000).chans[0]? = some queueChan ∧ queueChan.q = running1 :: [entry2] ∧ running1.run = true ∧
      running1.dl.toNat ≤ (queueState 100000).now.toNat) ∧
    ((queueState 100000).chans[1]? = some chan ∧ chan.q = []) ∧
    (¬running1.dl.toNat ≤ (queueState 99999).now.toNat ∧ entry2.run = false) := by decide

theorem witness_EnqueuePushesAndDispatches :
    Ready (withArgs chan 2 100 0xFFFFFFFF) 0 chan ∧
    (2#64, Action.reverse) ∈ [(0#64, .idle), (1#64, .forward), (2#64, .reverse)] ∧ (100#64).toNat ≤ 100 ∧
    (0xFFFFFFFF#64).toNat < 2 ^ 32 ∧ chan.q.length < Config.defaultParams.qcap ∧
    2 < (3#64).toNat ∧ 100 < (101#64).toNat ∧ 2 ^ 32 ≤ (0x100000000#64).toNat ∧
    (Ready { withArgs queueChan 1 10 0 with params := { Config.defaultParams with qcap := 2 } } 0 queueChan ∧
      2 ≤ queueChan.q.length) := by decide

theorem witness_FullQueueRejectsAndKeepsItsContents :
    let s : State := { withArgs queueChan 2 100 0 with params := { Config.defaultParams with qcap := 2 } }
    0 < 16 ∧ Ready s 0 queueChan ∧ queueChan.q.length = s.params.qcap ∧ s.arg0.toNat ≤ 2 ∧ s.arg1.toNat ≤ 100 ∧
    s.arg2.toNat < 2 ^ 32 := by decide

theorem witness_StopDrainsAndInjects : Ready (queueState 0) 0 queueChan := by decide

theorem witness_AlarmFiresOnlyWhenDue :
    ((queueState 100000).alarmArm = true ∧ (queueState 100000).alarmAt.toNat ≤ (queueState 100000).now.toNat ∧
      (queueState 100000).cfgHalt = false) ∧
    State.reset.alarmArm = false ∧ (queueState 99999).now.toNat < (queueState 99999).alarmAt.toNat ∧
    haltedState.cfgHalt = true := by decide

/-- A running head; no entry at all; the last index; the first index beyond. -/
theorem witness_QueueAndAlarmReadsPackTheirResults :
    (queueState 0).cfgHalt = false ∧ (queueState 0).chans[0]? = some queueChan ∧ queueChan.q.length < 256 ∧
    queueChan.q = running1 :: [entry2] ∧ running1.run = true ∧ chan.q = [] ∧ queueChan.q[1]? = some entry2 ∧
    queueChan.q.length ≤ 2 := by decide

theorem witness_StepKeepsTheSingleAlarm : AlarmSound nopReady ∧ step nopReady = .next State.reset :=
  ⟨by decide, witness_nop_step⟩

theorem witness_StepKeepsTheQueuesSound :
    HaltSound nopReady ∧ EachChannel (QueueSound nopReady.params.qcap) nopReady ∧
    step nopReady = .next State.reset := ⟨by decide, by decide, witness_nop_step⟩

/-- The smallest and the largest advance from reset; none; one too many. -/
theorem witness_TimeAdvancesWithinItsBound :
    1 ≤ 1 ∧ State.reset.now.toNat + (2 ^ 63 - 1) ≤ 2 ^ 63 - 1 ∧ 2 ^ 63 - 1 < State.reset.now.toNat + 2 ^ 63 := by
  decide

theorem witness_SystemCommandsReadTimeAndClearFlags :
    State.reset.cfgHalt = false ∧ State.reset.chans[1]? = some chan ∧ (7#64) = (7#3).setWidth 64 ∧
    8 ≤ (8#64).toNat := by decide

theorem witness_StepKeepsTheTimesSound : TimeSound nopReady ∧ step nopReady = .next State.reset :=
  ⟨by decide, witness_nop_step⟩

/-- One case for each of the three events. -/
theorem witness_InternalEventsDisableThemselves :
    (TimeSound (on0 { chan with edPend := true }) ∧
      exec (.evEdge 0) (on0 { chan with edPend := true }) = .next State.reset) ∧
    (TimeSound { State.reset with now := 5000000 } ∧ ∃ t, exec (.evVtick 0) { State.reset with now := 5000000 } = .next t) ∧
    (TimeSound { on0 pidChan with now := 100000 } ∧ ∃ t, exec (.evPtick 0) { on0 pidChan with now := 100000 } = .next t) :=
  ⟨⟨by decide, next_of_see (by decide)⟩, ⟨by decide, _, rfl⟩, ⟨by decide, _, rfl⟩⟩

theorem witness_StepKeepsTheHaltAndItsQuiet :
    HaltSound nopReady ∧ HaltQuiet nopReady ∧ step nopReady = .next State.reset :=
  ⟨by decide, by decide, witness_nop_step⟩

theorem witness_OnlyListedTransitionsWriteGlobals :
    exec (.enable 1) State.reset =
      .next { State.reset with chans := [chan, { chan with en := true }], outlog := [.reset, .pin 1 .en 1] } ∧
    Instr.enable 1 ≠ .evReset ∧ ¬Sched (.enable 1) :=
  ⟨next_of_see (by decide), by decide, by simp [Sched]⟩

theorem witness_OnlyListedTransitionsWriteAChannel :
    (∃ t, exec (.enable 1) State.reset = .next t) ∧ Instr.enable 1 ≠ .evReset ∧ State.reset.chans[1]? = some chan :=
  ⟨⟨_, rfl⟩, by decide, by decide⟩

theorem witness_ChannelsAreIndependent :
    (∃ t, exec (.enable 1) State.reset = .next t) ∧ (Instr.enable 1).channel = some 1 ∧ ¬Sched (.enable 1) ∧ 0 ≠ 1 :=
  ⟨⟨_, rfl⟩, by decide, by simp [Sched], by decide⟩

theorem witness_OutputLogOnlyGrows : step nopReady = .next State.reset := witness_nop_step

end Sys2Proof.Tests
end

section
/-! PROOF. What single operations leave of a channel and what DISPATCH leaves of the global registers; then two
invariants of every channel: the PID limits (R56, R64, R213) and the output stage (R66, R67, R249). -/

namespace Sys2Proof.Machine

/-! ## What an operation leaves of its channel -/

/-- The edge handler writes the decoder's registers only (R144 to R146). -/
theorem edgeStep_frame (c : Channel) :
    ∃ p pos l d, edgeStep c = { c with edPend := p, edPos := pos, edLast := l, diagCnt := d } := by
  unfold edgeStep
  dsimp only
  split <;> exact ⟨_, _, _, _, rfl⟩

/-- A sampler tick writes the sampler's registers and the flags only (R171). -/
theorem sampleStep_frame (t : U64) (c : Channel) :
    ∃ v p pt n f, sampleStep t c = { c with vel := v, vPrevPos := p, vPrevT := pt, vNext := n, flags := f } := by
  unfold sampleStep
  dsimp only
  split <;> exact ⟨_, _, _, _, _, rfl⟩

/-- A switch of mode writes the mode and the seed only (R203). -/
theorem switchMode_frame (mode : PidMode) (c : Channel) :
    ∃ md sd, switchMode mode c = { c with pidMode := md, pidSeed := sd } := by
  cases mode with
  | manual => exact ⟨_, _, rfl⟩
  | automatic =>
    unfold switchMode
    dsimp only
    split
    · exact ⟨_, _, rfl⟩
    · exact ⟨c.pidMode, c.pidSeed, rfl⟩

/-- DISABLE clears the four outputs (R246). -/
theorem disablePins_chan (m : Nat) (c : Channel) :
    (disablePins m c).chan = { c with pwm := 0, dirA := false, dirB := false, en := false } := by
  simp [disablePins, Channel.setLevel]

/-- DRIFT releases both directions (R247). -/
theorem driftPins_chan (m : Nat) (c : Channel) : (driftPins m c).chan = { c with dirA := false, dirB := false } := by
  simp [driftPins, Channel.setLevel]

/-- PID_STEP leaves what SET_DUTY_CORE leaves after the update, but for the flags (R210). -/
theorem pidStep_chan (now : U64) (m : Nat) (c : Channel) :
    ∃ f, (pidStep now m c).chan =
      { (setDutyCore m (tdiv (pidOutput c) (2 ^ 32)) .pid (pidUpdate now c)).chan with flags := f } := by
  unfold pidStep
  dsimp only
  split <;> exact ⟨_, rfl⟩

/-- Step 1 of DISPATCH writes the queue only, and what it leaves there was there (R276). -/
theorem completeHead_chan (now : U64) (c : Channel) :
    completeHead now c = c ∨ completeHead now c = { c with q := c.q.tail } := by
  rcases completeHead_cases now c with h | ⟨e, es, hq, _, _, h⟩
  · exact .inl h
  · exact .inr (by simp [h, hq])

/-- DISPATCH leaves a channel with another queue, or also what SET_DUTY_CORE leaves of it, but for the flags (R276). -/
theorem dispatchHead_chan (now : U64) (m : Nat) (c : Channel) :
    (∃ q, (dispatchHead now m c).chan = { c with q := q }) ∨
      ∃ v q0 q f, (dispatchHead now m c).chan =
        { (setDutyCore m v .sched { c with q := q0 }).chan with q := q, flags := f } := by
  obtain ⟨q0, hq0⟩ : ∃ q0, completeHead now c = { c with q := q0 } := by
    rcases completeHead_chan now c with h | h
    · exact ⟨c.q, h⟩
    · exact ⟨_, h⟩
  unfold dispatchHead
  rw [hq0]
  rcases startHead_cases now m { c with q := q0 } with ⟨h, _⟩ | ⟨e, es, _, _, h⟩
  · exact .inl ⟨q0, by rw [h]⟩
  · exact .inr ⟨spow e, q0, _, _, by rw [h]⟩

/-! ## What DISPATCH leaves of the global registers -/

@[simp] theorem dispatch_cmd (s : State) : (dispatch s).cmd = s.cmd := by rw [dispatch_eq]
@[simp] theorem dispatch_arg0 (s : State) : (dispatch s).arg0 = s.arg0 := by rw [dispatch_eq]
@[simp] theorem dispatch_arg1 (s : State) : (dispatch s).arg1 = s.arg1 := by rw [dispatch_eq]
@[simp] theorem dispatch_arg2 (s : State) : (dispatch s).arg2 = s.arg2 := by rw [dispatch_eq]
@[simp] theorem dispatch_status (s : State) : (dispatch s).status = s.status := by rw [dispatch_eq]
@[simp] theorem dispatch_result0 (s : State) : (dispatch s).result0 = s.result0 := by rw [dispatch_eq]
@[simp] theorem dispatch_result1 (s : State) : (dispatch s).result1 = s.result1 := by rw [dispatch_eq]
@[simp] theorem dispatch_cfgHalt (s : State) : (dispatch s).cfgHalt = s.cfgHalt := by rw [dispatch_eq]
@[simp] theorem dispatch_now (s : State) : (dispatch s).now = s.now := by rw [dispatch_eq]
@[simp] theorem dispatch_params (s : State) : (dispatch s).params = s.params := by rw [dispatch_eq]
@[simp] theorem dispatch_agenda (s : State) : (dispatch s).agenda = s.agenda := by rw [dispatch_eq]
@[simp] theorem dispatch_hostData (s : State) : (dispatch s).hostData = s.hostData := by rw [dispatch_eq]
@[simp] theorem dispatch_choices (s : State) : (dispatch s).choices = s.choices := by rw [dispatch_eq]

@[simp] theorem dispatch_chans_length (s : State) : (dispatch s).chans.length = s.chans.length := by
  rw [dispatch_eq]; simp

/-! ## A property of every channel -/

/-- A write to channel `m` that keeps a property of that channel keeps it of every channel. -/
theorem eachChannel_write {p : Channel → Prop} {s : State} {m : Nat} {c c' : Channel} (hs : EachChannel p s)
    (hm : s.chans[m]? = some c) (hkeep : p c → p c') : EachChannel p (s.setChan m c') :=
  eachChannel_set hs (hkeep (hs c (List.mem_of_getElem? hm)))

/-! ## The PID limits -/

/-- A step leaves the output clamped between the limits (R210, R213). -/
theorem pidSound_pidStep (now : U64) (m : Nat) {c : Channel} (h : PidSound c) : PidSound (pidStep now m c).chan := by
  obtain ⟨a, b, p, l, f, heq⟩ := pidStep_frame now m c
  obtain ⟨hmin, hlt, hmax, _, _⟩ := h
  rw [heq]
  exact ⟨hmin, hlt, hmax, q64_clamp hlt.le _⟩

theorem pidSound_dispatchHead (now : U64) (m : Nat) {c : Channel} (h : PidSound c) :
    PidSound (dispatchHead now m c).chan := by
  obtain ⟨a, b, p, l, q, f, heq⟩ := dispatchHead_frame now m c
  rw [heq]
  exact h

/-- The limits a reset sets are 0 and 100, the output 0 (R370). -/
theorem pidSound_resetRegs (c : Channel) : PidSound c.resetRegs := by
  have hmin : c.resetRegs.pidMin.toInt = 0 := by rfl
  have hmax : c.resetRegs.pidMax.toInt = fx 100 := by rfl
  have hout : c.resetRegs.pidOut.toInt = 0 := by rfl
  unfold PidSound
  rw [hmin, hmax, hout]
  decide

/-- Every instruction keeps the PID limits legal and the output within them. -/
theorem exec_keeps_pidSound {i : Instr} {s t : State} (hs : EachChannel PidSound s) (h : exec i s = .next t) :
    EachChannel PidSound t := by
  cases exec_effect h with
  | rejected | answered | evTime => exact hs
  | edReset hc | calibrate hc | setVelPeriod hc | setTarget hc | setTunings hc | setInterval hc | clearFlags _ hc =>
    exact eachChannel_write hs hc.2 id
  | evPhase _ _ hc => exact eachChannel_write hs hc id
  | @setMode m c mode hc =>
    obtain ⟨md, sd, heq⟩ := switchMode_frame mode c
    exact eachChannel_write hs hc.2 (by rw [heq]; exact id)
  | @evEdge m c hc =>
    obtain ⟨p, pos, l, d, heq⟩ := edgeStep_frame c
    exact eachChannel_write hs hc.2 (by rw [heq]; exact id)
  | @evVtick m c hc =>
    obtain ⟨v, p, pt, n, f, heq⟩ := sampleStep_frame s.now c
    exact eachChannel_write hs hc.2 (by rw [heq]; exact id)
  | setLimits hc hv =>
    obtain ⟨hmin, hlt, hmax⟩ := of_decide_eq_true hv
    exact eachChannel_set hs ⟨hmin, hlt, hmax, q64_clamp hlt.le _⟩
  | setOutput hc =>
    exact eachChannel_write hs hc.2 fun ⟨hmin, hlt, hmax, _, _⟩ => ⟨hmin, hlt, hmax, q64_clamp hlt.le _⟩
  | compute hc | evPtick hc => exact eachChannel_write hs hc.2 (pidSound_pidStep _ _)
  | @setDuty m c v hc =>
    obtain ⟨a, b, p, l, heq⟩ := setDutyCore_frame m v .host c
    exact eachChannel_write hs hc.2 (by rw [heq]; exact id)
  | enable hc => exact eachChannel_write hs hc.2 (by rw [Drive.pin_chan]; exact id)
  | disable hc => exact eachChannel_write hs hc.2 (by rw [disablePins_chan]; exact id)
  | drift hc => exact eachChannel_write hs hc.2 (by rw [driftPins_chan]; exact id)
  | enqueue _ _ hc | stop hc =>
    exact eachChannel_dispatch (fun m _ => pidSound_dispatchHead _ m) (eachChannel_write hs hc.2 id)
  | evAlarm => exact eachChannel_dispatch (fun m _ => pidSound_dispatchHead _ m) hs
  | evReset => exact eachChannel_reset fun c _ => pidSound_resetRegs c

/-- Settles O35: every instruction keeps the invariant, and it does not look at the host's side of the block. -/
theorem stepKeepsTheOutputWithinLimits : Obligations.StepKeepsTheOutputWithinLimits := fun _ _ hs h =>
  step_keeps (EachChannel PidSound) (fun _ _ _ => exec_keeps_pidSound) (fun _ _ _ _ _ _ _ _ _ hs => hs) hs h

/-! ## The output stage -/

/-- SET_DUTY_CORE drives one direction at a percent, and only an enabled channel (R244). -/
theorem outputsSound_setDutyCore (m : Nat) (v : Int) (src : Source) {c : Channel} (h : OutputsSound c) :
    OutputsSound (setDutyCore m v src c).chan := by
  rw [setDutyCore_chan]
  split
  · rename_i hok
    obtain ⟨hlo, hhi, hen⟩ := dutyStatus_ok.mp hok
    refine ⟨by simp, by simp [hen], ?_⟩
    simp only [BitVec.toNat_ofNat]
    omega
  · exact h

theorem outputsSound_pidStep (now : U64) (m : Nat) {c : Channel} (h : OutputsSound c) :
    OutputsSound (pidStep now m c).chan := by
  have hupdate : OutputsSound (pidUpdate now c) := h
  obtain ⟨f, heq⟩ := pidStep_chan now m c
  rw [heq]
  exact outputsSound_setDutyCore m _ .pid hupdate

theorem outputsSound_dispatchHead (now : U64) (m : Nat) {c : Channel} (h : OutputsSound c) :
    OutputsSound (dispatchHead now m c).chan := by
  rcases dispatchHead_chan now m c with ⟨q, heq⟩ | ⟨v, q0, q, f, heq⟩
  · rw [heq]
    exact h
  · have hqueue : OutputsSound { c with q := q0 } := h
    rw [heq]
    exact outputsSound_setDutyCore m v .sched hqueue

/-- A channel with no direction and no magnitude is sound, enabled or not. -/
theorem outputsSound_of_released {c : Channel} (ha : c.dirA = false) (hb : c.dirB = false) (hp : c.pwm = 0) :
    OutputsSound c := by
  simp [OutputsSound, ha, hb, hp]

/-- Every instruction keeps the output stage sound. -/
theorem exec_keeps_outputsSound {i : Instr} {s t : State} (hs : EachChannel OutputsSound s)
    (h : exec i s = .next t) : EachChannel OutputsSound t := by
  cases exec_effect h with
  | rejected | answered | evTime => exact hs
  | edReset hc | calibrate hc | setVelPeriod hc | setTarget hc | setTunings hc | setInterval hc | setLimits hc
  | setOutput hc | clearFlags _ hc => exact eachChannel_write hs hc.2 id
  | evPhase _ _ hc => exact eachChannel_write hs hc id
  | @setMode m c mode hc =>
    obtain ⟨md, sd, heq⟩ := switchMode_frame mode c
    exact eachChannel_write hs hc.2 (by rw [heq]; exact id)
  | @evEdge m c hc =>
    obtain ⟨p, pos, l, d, heq⟩ := edgeStep_frame c
    exact eachChannel_write hs hc.2 (by rw [heq]; exact id)
  | @evVtick m c hc =>
    obtain ⟨v, p, pt, n, f, heq⟩ := sampleStep_frame s.now c
    exact eachChannel_write hs hc.2 (by rw [heq]; exact id)
  | compute hc | evPtick hc => exact eachChannel_write hs hc.2 (outputsSound_pidStep _ _)
  | setDuty v hc => exact eachChannel_write hs hc.2 (outputsSound_setDutyCore _ v .host)
  | enable hc =>
    refine eachChannel_write hs hc.2 fun ⟨hbrake, _, hpct⟩ => ?_
    rw [Drive.pin_chan]
    exact ⟨hbrake, nofun, hpct⟩
  | disable hc => exact eachChannel_set hs (by rw [disablePins_chan]; exact outputsSound_of_released rfl rfl rfl)
  | drift hc =>
    refine eachChannel_write hs hc.2 fun ⟨_, hoff, hpct⟩ => ?_
    rw [driftPins_chan]
    exact ⟨nofun, fun hen => ⟨(hoff hen).1, rfl, rfl⟩, hpct⟩
  | enqueue _ _ hc | stop hc =>
    exact eachChannel_dispatch (fun m _ => outputsSound_dispatchHead _ m) (eachChannel_write hs hc.2 id)
  | evAlarm => exact eachChannel_dispatch (fun m _ => outputsSound_dispatchHead _ m) hs
  | evReset => exact eachChannel_reset fun _ _ => outputsSound_of_released rfl rfl rfl

/-- Settles O40: every instruction keeps the invariant, and it does not look at the host's side of the block. -/
theorem stepKeepsTheOutputStageSafe : Obligations.StepKeepsTheOutputStageSafe := fun _ _ hs h =>
  step_keeps (EachChannel OutputsSound) (fun _ _ _ => exec_keeps_outputsSound) (fun _ _ _ _ _ _ _ _ _ hs => hs) hs h

end Sys2Proof.Machine
end

section
/-! PROOF. The invariants of the queues (R69, R70, R281) and of the times (R38, R49, R60, R181). -/

namespace Sys2Proof.Machine

/-! ## The queues -/

theorem queueSound_tail {qcap : Nat} {c : Channel} (h : QueueSound qcap c) :
    QueueSound qcap { c with q := c.q.tail } := by
  obtain ⟨hlen, hpct, hrun⟩ := h
  refine ⟨?_, fun e he => hpct e (List.mem_of_mem_tail he), fun e he => hrun e (List.mem_of_mem_tail he)⟩
  simp only [List.length_tail]
  omega

/-- Only the head runs after a head was started, and a started entry keeps its percent (R276). -/
theorem queueSound_startHead (now : U64) (m : Nat) {qcap : Nat} {c : Channel} (h : QueueSound qcap c) :
    QueueSound qcap (startHead now m c).chan := by
  rcases startHead_cases now m c with ⟨heq, _⟩ | ⟨e, es, hq, _, heq⟩
  · rw [heq]
    exact h
  · rw [heq]
    simpa only [QueueSound, hq, List.length_cons, List.forall_mem_cons, List.tail_cons] using h

theorem queueSound_dispatchHead (now : U64) (m : Nat) {qcap : Nat} {c : Channel} (h : QueueSound qcap c) :
    QueueSound qcap (dispatchHead now m c).chan := by
  apply queueSound_startHead
  rcases completeHead_chan now c with heq | heq
  · rw [heq]
    exact h
  · rw [heq]
    exact queueSound_tail h

/-- A PENDING entry of at most 100 percent may be pushed where there is room (R272). -/
theorem queueSound_push {qcap : Nat} {c : Channel} (act : Action) {pwr : BitVec 7} (dur : U32)
    (hpwr : pwr.toNat ≤ 100) (hroom : c.q.length < qcap) (h : QueueSound qcap c) :
    QueueSound qcap (c.push (pendingEntry act pwr dur)) := by
  obtain ⟨hlen, hpct, hrun⟩ := h
  refine ⟨?_, ?_, ?_⟩
  · simpa [Channel.push] using hroom
  · intro e he
    rcases List.mem_append.mp he with he | he
    · exact hpct e he
    · rw [List.mem_singleton.mp he]
      exact hpwr
  · intro e he
    cases hq : c.q with
    | nil => simp [Channel.push, hq] at he
    | cons e0 es =>
      simp only [Channel.push, hq, List.cons_append, List.tail_cons, List.mem_append, List.mem_singleton] at he
      rcases he with he | rfl
      · exact hrun e (by rwa [hq])
      · rfl

/-- The one entry that STOP injects has no power (R273). -/
theorem queueSound_stop {qcap : Nat} (c : Channel) (h : 1 ≤ qcap) : QueueSound qcap { c with q := [stopEntry c] } := by
  simp [QueueSound, stopEntry, pendingEntry, h]

/-- A block that is not halted has a legal capacity (R372). -/
theorem qcap_pos_of_ready {s : State} (hh : HaltSound s) (h : s.cfgHalt = false) : 1 ≤ s.params.qcap := by
  have hv : s.configValid = true := by simpa [HaltSound, h] using hh
  simp only [State.configValid, Bool.and_eq_true, decide_eq_true_eq] at hv
  omega

theorem exec_params {i : Instr} {s t : State} (h : exec i s = .next t) : t.params = s.params := by
  cases exec_effect h with
  | enqueue | stop | evAlarm => simp
  | _ => rfl

/-- Every instruction keeps the queues sound. -/
theorem exec_keeps_queueSound {i : Instr} {s t : State} (hh : HaltSound s)
    (hs : EachChannel (QueueSound s.params.qcap) s) (h : exec i s = .next t) :
    EachChannel (QueueSound s.params.qcap) t := by
  cases exec_effect h with
  | rejected | answered | evTime => exact hs
  | edReset hc | calibrate hc | setVelPeriod hc | setTarget hc | setTunings hc | setInterval hc | setLimits hc
  | setOutput hc | clearFlags _ hc => exact eachChannel_write hs hc.2 id
  | evPhase _ _ hc => exact eachChannel_write hs hc id
  | @setMode m c mode hc =>
    obtain ⟨md, sd, heq⟩ := switchMode_frame mode c
    exact eachChannel_write hs hc.2 (by rw [heq]; exact id)
  | @evEdge m c hc =>
    obtain ⟨p, pos, l, d, heq⟩ := edgeStep_frame c
    exact eachChannel_write hs hc.2 (by rw [heq]; exact id)
  | @evVtick m c hc =>
    obtain ⟨v, p, pt, n, f, heq⟩ := sampleStep_frame s.now c
    exact eachChannel_write hs hc.2 (by rw [heq]; exact id)
  | @compute m c hc | @evPtick m c hc =>
    obtain ⟨a, b, p, l, f, heq⟩ := pidStep_frame s.now m c
    exact eachChannel_write hs hc.2 (by rw [heq]; exact id)
  | @setDuty m c v hc =>
    obtain ⟨a, b, p, l, heq⟩ := setDutyCore_frame m v .host c
    exact eachChannel_write hs hc.2 (by rw [heq]; exact id)
  | enable hc => exact eachChannel_write hs hc.2 (by rw [Drive.pin_chan]; exact id)
  | disable hc => exact eachChannel_write hs hc.2 (by rw [disablePins_chan]; exact id)
  | drift hc => exact eachChannel_write hs hc.2 (by rw [driftPins_chan]; exact id)
  | enqueue act dur hc hpwr hroom =>
    exact eachChannel_dispatch (fun m _ => queueSound_dispatchHead _ m)
      (eachChannel_write hs hc.2 (queueSound_push act dur hpwr hroom))
  | stop hc =>
    exact eachChannel_dispatch (fun m _ => queueSound_dispatchHead _ m)
      (eachChannel_set hs (queueSound_stop _ (qcap_pos_of_ready hh hc.1)))
  | evAlarm => exact eachChannel_dispatch (fun m _ => queueSound_dispatchHead _ m) hs
  | evReset => exact eachChannel_reset fun c _ => by simp [QueueSound, Channel.resetRegs]

/-- Settles O48: a window access leaves the queues; an instruction keeps them sound, and the parameters. -/
theorem stepKeepsTheQueuesSound : Obligations.StepKeepsTheQueuesSound := by
  intro s t hh hs h
  rcases step_cases h with ⟨cmd, a0, a1, a2, st, hd, ag, rfl⟩ | ⟨i, cmd, ag, ch, _, he⟩
  · exact hs
  · rw [exec_params he]
    exact exec_keeps_queueSound (s := { s with cmd := cmd, agenda := ag, choices := ch }) hh hs he

/-! ## The times -/

/-- What `TimeSound` asks of one channel at a time `now`, on a block that is halted or not. -/
abbrev ChannelTimes (now : U64) (halted : Bool) (c : Channel) : Prop :=
  c.vPrevT.toNat ≤ now.toNat ∧ c.pidLast.toNat ≤ now.toNat ∧
    (halted = false → 1 ≤ c.vPeriodMs.toNat ∧ 1 ≤ c.pidTMs.toNat ∧ c.vPrevT.toNat + 1000 ≤ c.vNext.toNat)

theorem timeSound_iff (s : State) :
    TimeSound s ↔ s.now.toNat ≤ Config.timeMax ∧ EachChannel (ChannelTimes s.now s.cfgHalt) s :=
  Iff.rfl

/-- A tick, anomalous or not, leaves a due time at least one period after its previous time (R171, R181). -/
theorem channelTimes_sampleStep {now : U64} {c : Channel} (hnow : now.toNat ≤ Config.timeMax)
    (h : ChannelTimes now false c) : ChannelTimes now false (sampleStep now c) := by
  obtain ⟨hprev, hlast, hready⟩ := h
  obtain ⟨hper, hint, _⟩ := hready rfl
  have hdue := dueAfter_toNat hnow c.vPeriodMs
  unfold sampleStep
  dsimp only
  split
  · exact ⟨hprev, hlast, fun _ => ⟨hper, hint, by simp only [hdue, Channel.setFlag_vPrevT]; omega⟩⟩
  · exact ⟨le_rfl, hlast, fun _ => ⟨hper, hint, by simp only [hdue]; omega⟩⟩

/-- SET_VEL_PERIOD counts a positive period from now (R178). -/
theorem channelTimes_setVelPeriod {now : U64} {c : Channel} {ms : U32} (hnow : now.toNat ≤ Config.timeMax)
    (hms : 1 ≤ ms.toNat) (h : ChannelTimes now false c) :
    ChannelTimes now false { c with vPeriodMs := ms, vNext := dueAfter now ms } := by
  obtain ⟨hprev, hlast, hready⟩ := h
  obtain ⟨_, hint, _⟩ := hready rfl
  have hdue := dueAfter_toNat hnow ms
  exact ⟨hprev, hlast, fun _ => ⟨hms, hint, by simp only [hdue]; omega⟩⟩

theorem channelTimes_pidStep {now : U64} {halted : Bool} (m : Nat) {c : Channel} (h : ChannelTimes now halted c) :
    ChannelTimes now halted (pidStep now m c).chan := by
  obtain ⟨a, b, p, l, f, heq⟩ := pidStep_frame now m c
  obtain ⟨hprev, _, hready⟩ := h
  rw [heq]
  exact ⟨hprev, le_rfl, hready⟩

theorem channelTimes_dispatchHead {now : U64} {halted : Bool} (t : U64) (m : Nat) {c : Channel}
    (h : ChannelTimes now halted c) : ChannelTimes now halted (dispatchHead t m c).chan := by
  obtain ⟨a, b, p, l, q, f, heq⟩ := dispatchHead_frame t m c
  rw [heq]
  exact h

/-- Time that passes keeps the previous times behind it. -/
theorem channelTimes_mono {now later : U64} {halted : Bool} {c : Channel} (hle : now.toNat ≤ later.toNat)
    (h : ChannelTimes now halted c) : ChannelTimes later halted c := by
  obtain ⟨hprev, hlast, hready⟩ := h
  exact ⟨hprev.trans hle, hlast.trans hle, hready⟩

theorem timeSound_dispatch {s : State} (h : TimeSound s) : TimeSound (dispatch s) := by
  obtain ⟨hnow, hch⟩ := (timeSound_iff s).mp h
  rw [timeSound_iff, dispatch_now, dispatch_cfgHalt]
  exact ⟨hnow, eachChannel_dispatch (fun m _ => channelTimes_dispatchHead s.now m) hch⟩

theorem periodValid_iff {ms : Nat} : periodValid ms = true ↔ 1 ≤ ms ∧ ms < 2 ^ 32 := decide_eq_true_iff

/-- A reset that finds the configuration valid sets periods that fit their registers (R370, R372). -/
theorem channelTimes_reset {s : State} {c : Channel} (hc : c ∈ s.chans) :
    ChannelTimes 0 (!s.configValid) c.resetRegs := by
  refine ⟨le_rfl, le_rfl, fun hv => ?_⟩
  simp only [State.configValid, Bool.not_eq_false', Bool.and_eq_true, List.all_eq_true, periodValid_iff] at hv
  obtain ⟨⟨_, hper⟩, _⟩ := hv
  obtain ⟨hv, hp⟩ := hper c hc
  have hzero : (0 : U64).toNat = 0 := rfl
  have hdue : c.par.vPeriod0Ms * 1000 % 2 ^ 64 = c.par.vPeriod0Ms * 1000 := Nat.mod_eq_of_lt (by omega)
  simp only [Channel.resetRegs, BitVec.toNat_ofNat, hzero, hdue, Nat.mod_eq_of_lt hv.2, Nat.mod_eq_of_lt hp.2]
  omega

/-- Every instruction keeps the times sound. -/
theorem exec_keeps_timeSound {i : Instr} {s t : State} (hs : TimeSound s) (h : exec i s = .next t) : TimeSound t := by
  obtain ⟨hnow, hch⟩ := (timeSound_iff s).mp hs
  have write {m : Nat} {c c' : Channel} (hc : Ready s m c)
      (hkeep : ChannelTimes s.now false c → ChannelTimes s.now false c') :
      EachChannel (ChannelTimes s.now s.cfgHalt) (s.setChan m c') :=
    eachChannel_write hch hc.2 (by rwa [hc.1])
  cases exec_effect h with
  | rejected | answered => exact hs
  | edReset hc | calibrate hc | setTarget hc | setTunings hc | setLimits hc | setOutput hc | clearFlags _ hc =>
    exact ⟨hnow, write hc id⟩
  | evPhase _ _ hc => exact ⟨hnow, eachChannel_write hch hc id⟩
  | setVelPeriod hc hms =>
    have hpos := readPos32_some.mp hms
    exact ⟨hnow, write hc (channelTimes_setVelPeriod hnow (by omega))⟩
  | setInterval hc hms =>
    have hpos := readPos32_some.mp hms
    exact ⟨hnow, write hc fun ⟨hprev, hlast, hready⟩ =>
      ⟨hprev, hlast, fun hh => ⟨(hready hh).1, by dsimp only; omega, (hready hh).2.2⟩⟩⟩
  | @setMode m c mode hc =>
    obtain ⟨md, sd, heq⟩ := switchMode_frame mode c
    exact ⟨hnow, write hc (by rw [heq]; exact id)⟩
  | @evEdge m c hc =>
    obtain ⟨p, pos, l, d, heq⟩ := edgeStep_frame c
    exact ⟨hnow, write hc (by rw [heq]; exact id)⟩
  | evVtick hc => exact ⟨hnow, write hc (channelTimes_sampleStep hnow)⟩
  | compute hc | evPtick hc => exact ⟨hnow, write hc (channelTimes_pidStep _)⟩
  | @setDuty m c v hc =>
    obtain ⟨a, b, p, l, heq⟩ := setDutyCore_frame m v .host c
    exact ⟨hnow, write hc (by rw [heq]; exact id)⟩
  | enable hc => exact ⟨hnow, write hc (by rw [Drive.pin_chan]; exact id)⟩
  | disable hc => exact ⟨hnow, write hc (by rw [disablePins_chan]; exact id)⟩
  | drift hc => exact ⟨hnow, write hc (by rw [driftPins_chan]; exact id)⟩
  | enqueue _ _ hc | stop hc => exact timeSound_dispatch ⟨hnow, write hc id⟩
  | evAlarm => exact timeSound_dispatch hs
  | @evTime d _ hd =>
    have hlater : (BitVec.ofNat 64 (s.now.toNat + d)).toNat = s.now.toNat + d :=
      Nat.mod_eq_of_lt (by unfold Config.timeMax at hd; omega)
    refine (timeSound_iff _).mpr ⟨hlater.trans_le hd, fun c hc => channelTimes_mono ?_ (hch c hc)⟩
    exact (Nat.le_add_right ..).trans_eq hlater.symm
  | evReset => exact ⟨Nat.zero_le Config.timeMax, eachChannel_reset fun _ => channelTimes_reset⟩

/-- Settles O51: every instruction keeps the invariant, and it does not look at the host's side of the block. -/
theorem stepKeepsTheTimesSound : Obligations.StepKeepsTheTimesSound := fun _ _ hs h =>
  step_keeps TimeSound (fun _ _ _ => exec_keeps_timeSound) (fun _ _ _ _ _ _ _ _ _ hs => hs) hs h

end Sys2Proof.Machine
end

section
/-! PROOF. Who writes what (R72, R75, R106): the global registers, the output log and the registers of a channel. -/

namespace Sys2Proof.Machine

/-! ## The registers no instruction but EV_RESET writes -/

/-- EV_RESET apart, no instruction writes G.CMD, an ARG register, the halt, the parameters or the model's own fields, or
changes the number of channels. -/
theorem exec_fixed {i : Instr} {s t : State} (h : exec i s = .next t) (hr : i ≠ .evReset) :
    t.cmd = s.cmd ∧ t.arg0 = s.arg0 ∧ t.arg1 = s.arg1 ∧ t.arg2 = s.arg2 ∧ t.cfgHalt = s.cfgHalt ∧
      t.params = s.params ∧ t.agenda = s.agenda ∧ t.hostData = s.hostData ∧ t.choices = s.choices ∧
      t.chans.length = s.chans.length := by
  cases exec_effect h with
  | evReset => exact absurd rfl hr
  | _ => simp [State.commit]

/-- Only EV_TIME writes the time. -/
theorem exec_now {i : Instr} {s t : State} (h : exec i s = .next t) (hr : i ≠ .evReset) (ht : ∀ d, i ≠ .evTime d) :
    t.now = s.now := by
  cases exec_effect h with
  | evReset => exact absurd rfl hr
  | evTime => exact absurd rfl (ht _)
  | enqueue | stop | evAlarm => simp
  | _ => rfl

/-- Only an instruction that runs DISPATCH writes the alarm. -/
theorem exec_alarm {i : Instr} {s t : State} (h : exec i s = .next t) (hr : i ≠ .evReset) (hd : ¬Sched i) :
    t.alarmArm = s.alarmArm ∧ t.alarmAt = s.alarmAt := by
  cases exec_effect h with
  | evReset => exact absurd rfl hr
  | enqueue => exact absurd (.inl ⟨_, rfl⟩) hd
  | stop => exact absurd (.inr (.inl ⟨_, rfl⟩)) hd
  | evAlarm => exact absurd (.inr (.inr rfl)) hd
  | _ => exact ⟨rfl, rfl⟩

/-! ## STATUS and the RESULT registers -/

/-- An event answers nothing. -/
theorem exec_event_answers {i : Instr} {s t : State} (h : exec i s = .next t) (hr : i ≠ .evReset)
    (he : i.isEvent = true) : t.status = s.status ∧ t.result0 = s.result0 ∧ t.result1 = s.result1 := by
  cases exec_effect h with
  | evReset => exact absurd rfl hr
  | evAlarm => simp
  | evPhase | evEdge | evVtick | evPtick | evTime => exact ⟨rfl, rfl, rfl⟩
  | rejected hc | answered _ _ hc => simp [hc] at he
  | _ => cases he

/-- A rejected command leaves both RESULT registers (R331). -/
theorem exec_rejected_results {i : Instr} {s t : State} (h : exec i s = .next t) (hst : t.status ≠ .ok)
    (he : i.isEvent = false) : t.result0 = s.result0 ∧ t.result1 = s.result1 := by
  cases exec_effect h with
  | rejected | setDuty => exact ⟨rfl, rfl⟩
  | evReset | evAlarm | evPhase | evEdge | evVtick | evPtick | evTime => cases he
  | _ => exact absurd rfl hst

/-- `f` is the same in the state before and in the one an outcome leaves. -/
def Keeps {α : Type} (f : State → α) (s : State) (r : Result) : Prop := ∀ t, r = .next t → f t = f s

theorem keeps_next {α : Type} {f : State → α} {s t : State} (h : f t = f s) : Keeps f s (.next t) := by
  rintro _ ⟨⟩
  exact h

theorem keeps_onGlobal {α : Type} {f : State → α} {s : State} {body : Result} (hf : ∀ st, f (s.setStatus st) = f s)
    (hb : Keeps f s body) : Keeps f s (onGlobal s body) := by
  intro t h
  rcases onGlobal_next h with ⟨rfl, _⟩ | ⟨_, hx⟩
  · exact hf _
  · exact hb t hx

theorem keeps_onChannel {α : Type} {f : State → α} {s : State} {m : Nat} {body : Channel → Result}
    (hf : ∀ st, f (s.setStatus st) = f s) (hb : ∀ c, Keeps f s (body c)) : Keeps f s (onChannel m s body) := by
  intro t h
  rcases onChannel_next h with ⟨st, _, _, rfl⟩ | ⟨c, _, hx⟩
  · exact hf st
  · exact hb c t hx

theorem keeps_withArg {α β : Type} {f : State → α} {s : State} {a : Option β} {body : β → Result}
    (hf : ∀ st, f (s.setStatus st) = f s) (hb : ∀ v, Keeps f s (body v)) : Keeps f s (withArg a s body) := by
  intro t h
  rcases withArg_next h with ⟨rfl, _⟩ | ⟨v, _, hx⟩
  · exact hf _
  · exact hb v t hx

/-- Both RESULT registers. -/
def State.results (s : State) : U64 × U64 := (s.result0, s.result1)

@[simp] theorem State.results_setStatus (st : Status) (s : State) : (s.setStatus st).results = s.results := rfl
@[simp] theorem State.results_dispatch (s : State) : (dispatch s).results = s.results := by simp [State.results]
@[simp] theorem State.results_setChan (m : Nat) (c : Channel) (s : State) : (s.setChan m c).results = s.results := rfl
@[simp] theorem State.results_commit (m : Nat) (d : Drive) (s : State) : (s.commit m d).results = s.results := rfl

/-- The commands that R106 gives a RESULT0 and no RESULT1. -/
def OneResult (i : Instr) : Prop :=
  i = .getTime ∨ ∃ m, i ∈ [.edGetcount m, .getVelocity m, .compute m, .getMotor m, .getFlags m]

/-- The commands that R106 gives both RESULT registers. -/
def TwoResults (i : Instr) : Prop :=
  i = .getAlarm ∨ ∃ m, i ∈ [.getPosition m, .edGetdiag m, .getCalibration m, .getVelPeriod m, .getOutput m,
    .queueStatus m, .queuePeek m]

/-- The RESULT columns of R106. -/
theorem exec_results {i : Instr} (s : State) (hr : i ≠ .evReset) :
    Keeps State.results s (exec i s) ∨ Keeps State.result1 s (exec i s) ∧ OneResult i ∨ TwoResults i := by
  cases i with
  | getAlarm => exact .inr (.inr (.inl rfl))
  | getPosition m | edGetdiag m | getCalibration m | getVelPeriod m | getOutput m | queueStatus m | queuePeek m =>
    exact .inr (.inr (.inr ⟨m, by simp⟩))
  | getTime => exact .inr (.inl ⟨keeps_onGlobal (fun _ => rfl) (keeps_next rfl), .inl rfl⟩)
  | edGetcount m | getVelocity m | getMotor m | getFlags m =>
    exact .inr (.inl ⟨keeps_onChannel (fun _ => rfl) fun _ => keeps_next rfl, .inr ⟨m, by simp⟩⟩)
  | compute m =>
    refine .inr (.inl ⟨keeps_onChannel (fun _ => rfl) fun _ => ?_, .inr ⟨m, by simp⟩⟩)
    split <;> exact keeps_next rfl
  | nop => exact .inl (keeps_onGlobal (fun _ => rfl) (keeps_next rfl))
  | edReset | setTarget | setTunings | enable | disable | drift =>
    exact .inl (keeps_onChannel (fun _ => rfl) fun _ => keeps_next rfl)
  | stop => exact .inl (keeps_onChannel (fun _ => rfl) fun _ => keeps_next (by simp))
  | setVelPeriod | setMode | setInterval | clearFlags =>
    exact .inl (keeps_onChannel (fun _ => rfl) fun _ => keeps_withArg (fun _ => rfl) fun _ => keeps_next rfl)
  | calibrate | setDuty =>
    refine .inl (keeps_onChannel (fun _ => rfl) fun _ => keeps_withArg (fun _ => rfl) fun _ => ?_)
    split <;> exact keeps_next rfl
  | setOutput =>
    refine .inl (keeps_onChannel (fun _ => rfl) fun _ => ?_)
    split <;> exact keeps_next rfl
  | setLimits =>
    refine .inl (keeps_onChannel (fun _ => rfl) fun _ => ?_)
    dsimp only
    split <;> exact keeps_next rfl
  | enqueue =>
    refine .inl (keeps_onChannel (fun _ => rfl) fun _ => keeps_withArg (fun _ => rfl) fun _ =>
      keeps_withArg (fun _ => rfl) fun _ => keeps_withArg (fun _ => rfl) fun _ => ?_)
    split <;> exact keeps_next (by simp)
  | evReset => exact absurd rfl hr
  | evPhase | evEdge | evVtick | evPtick | evAlarm | evTime =>
    refine .inl fun t h => ?_
    obtain ⟨_, h0, h1⟩ := exec_event_answers h hr rfl
    exact Prod.ext h0 h1

/-! ## The output log -/

/-- DISPATCH appends to the log (R276). -/
theorem dispatch_outlog_prefix (s : State) : s.outlog <+: (dispatch s).outlog := by
  obtain ⟨es, heq⟩ := dispatch_outlog s
  exact ⟨es, heq.symm⟩

/-- Every instruction appends to the log or leaves it. -/
theorem exec_outlog_prefix {i : Instr} {s t : State} (h : exec i s = .next t) : s.outlog <+: t.outlog := by
  cases exec_effect h with
  | compute | setDuty | enable | disable | drift | evPtick | evReset => exact List.prefix_append ..
  | enqueue | stop => exact (dispatch_outlog_prefix (s.setChan _ _) :)
  | evAlarm => exact dispatch_outlog_prefix s
  | _ => exact List.prefix_rfl

/-- Only SET_DUTY_CORE, in the instructions that may run it, ENABLE, DISABLE, DRIFT and EV_RESET append to the log. -/
theorem exec_outlog_writers {i : Instr} {s t : State} (h : exec i s = .next t) (hr : i ≠ .evReset) :
    t.outlog = s.outlog ∨ ∃ m, DutyRun m i ∨ i = .enable m ∨ i = .disable m ∨ i = .drift m := by
  cases exec_effect h with
  | evReset => exact absurd rfl hr
  | @compute m | @setDuty m | @enable m | @disable m | @drift m | @evPtick m | @enqueue m | @stop m =>
    exact .inr ⟨m, by simp [DutyRun, PidRun, Sched]⟩
  | evAlarm => exact .inr ⟨0, by simp [DutyRun, Sched]⟩
  | _ => exact .inl rfl

/-- Settles O57: clause by clause, each from the lemma about the registers it names. -/
theorem onlyListedTransitionsWriteGlobals : Obligations.OnlyListedTransitionsWriteGlobals := by
  intro i s t h hr
  refine ⟨exec_fixed h hr, exec_event_answers h hr, exec_rejected_results h, exec_now h hr, exec_alarm h hr, ?_, ?_,
    exec_outlog_prefix h, exec_outlog_writers h hr⟩
  · rcases exec_results s hr with hres | ⟨_, hi | ⟨m, hi⟩⟩ | hi | ⟨m, hi⟩
    · exact .inl (congrArg Prod.fst (hres t h))
    · exact .inr (.inr (.inl hi))
    · exact .inr (.inr (.inr ⟨m, by simp only [List.mem_cons] at hi ⊢; tauto⟩))
    · exact .inr (.inl hi)
    · exact .inr (.inr (.inr ⟨m, by simp only [List.mem_cons] at hi ⊢; tauto⟩))
  · rcases exec_results s hr with hres | ⟨hres, _⟩ | hi
    · exact .inl (congrArg Prod.snd (hres t h))
    · exact .inl (hres t h)
    · exact .inr hi

/-- Settles O60: a window access leaves the log, and every instruction only appends to it. -/
theorem outputLogOnlyGrows : Obligations.OutputLogOnlyGrows := fun s _ h =>
  step_keeps (fun u => s.outlog <+: u.outlog) (fun _ _ _ hu he => hu.trans (exec_outlog_prefix he))
    (fun _ _ _ _ _ _ _ _ _ hu => hu) List.prefix_rfl h

/-! ## The registers of a channel -/

/-- After a write to channel `m`, channel `k` holds what was written there or what it held. -/
theorem exists_setChan {R : Channel → Prop} {s : State} {m k : Nat} {c0 c1 c : Channel} (hm : s.chans[m]? = some c0)
    (hk : s.chans[k]? = some c) (hkeep : R c) (hwrite : k = m → c = c0 → R c1) :
    ∃ c', (s.setChan m c1).chans[k]? = some c' ∧ R c' := by
  by_cases hkm : k = m
  · subst hkm
    exact ⟨c1, setChan_self hm c1, hwrite rfl (Option.some.inj (hk.symm.trans hm))⟩
  · exact ⟨c, (setChan_other s c1 hkm).trans hk, hkeep⟩

theorem exists_dispatch {R : Channel → Prop} {s : State} {k : Nat} {c : Channel} (hk : s.chans[k]? = some c)
    (hd : R (dispatchHead s.now k c).chan) : ∃ c', (dispatch s).chans[k]? = some c' ∧ R c' :=
  ⟨_, by rw [dispatch_getElem?, hk]; rfl, hd⟩

/-- After a write to the queue of channel `m` and DISPATCH, channel `k` is what DISPATCH made of it with some queue. -/
theorem exists_dispatch_setQueue {R : Channel → Prop} {s : State} {m k : Nat} {c0 c : Channel} {q : List Entry}
    (hm : s.chans[m]? = some c0) (hk : s.chans[k]? = some c)
    (hd : ∀ q', R (dispatchHead s.now k { c with q := q' }).chan) :
    ∃ c', (dispatch (s.setChan m { c0 with q := q })).chans[k]? = some c' ∧ R c' := by
  obtain ⟨c1, hk1, hR⟩ :
      ∃ c1, (s.setChan m { c0 with q := q }).chans[k]? = some c1 ∧ R (dispatchHead s.now k c1).chan :=
    exists_setChan hm hk (hd c.q) (by rintro _ rfl; exact hd q)
  exact exists_dispatch hk1 hR

/-- Settles O58: by the effect of the instruction; what it writes on its channel is among the registers listed. -/
theorem onlyListedTransitionsWriteAChannel : Obligations.OnlyListedTransitionsWriteAChannel := by
  intro i s t k c h hr hk
  cases exec_effect h with
  | evReset => exact absurd rfl hr
  | rejected | answered | evTime => exact ⟨c, hk, by simp⟩
  | edReset hc | calibrate hc | setVelPeriod hc | setTarget hc | setTunings hc | setInterval hc | setLimits hc
  | setOutput hc | clearFlags _ hc =>
    exact exists_setChan hc.2 hk (by simp) (by rintro rfl rfl; simp)
  | evPhase a b hc => exact exists_setChan hc hk (by simp) (by rintro rfl rfl; simp [setPhase])
  | setMode mode hc =>
    obtain ⟨md, sd, heq⟩ := switchMode_frame mode c
    exact exists_setChan hc.2 hk (by simp) (by rintro rfl rfl; simp [heq])
  | evEdge hc =>
    obtain ⟨p, pos, l, d, heq⟩ := edgeStep_frame c
    exact exists_setChan hc.2 hk (by simp) (by rintro rfl rfl; simp [heq])
  | evVtick hc =>
    obtain ⟨v, p, pt, n, f, heq⟩ := sampleStep_frame s.now c
    exact exists_setChan hc.2 hk (by simp) (by rintro rfl rfl; simp [heq])
  | compute hc | evPtick hc =>
    obtain ⟨a, b, p, l, f, heq⟩ := pidStep_frame s.now k c
    exact exists_setChan hc.2 hk (by simp) (by rintro rfl rfl; simp [heq, DutyRun, PidRun])
  | setDuty v hc =>
    obtain ⟨a, b, p, l, heq⟩ := setDutyCore_frame k v .host c
    exact exists_setChan hc.2 hk (by simp) (by rintro rfl rfl; simp [heq, DutyRun])
  | enable hc => exact exists_setChan hc.2 hk (by simp) (by rintro rfl rfl; simp [Channel.setLevel])
  | disable hc => exact exists_setChan hc.2 hk (by simp) (by rintro rfl rfl; simp [disablePins_chan])
  | drift hc => exact exists_setChan hc.2 hk (by simp) (by rintro rfl rfl; simp [driftPins_chan])
  | enqueue act dur hc | stop hc =>
    refine exists_dispatch_setQueue hc.2 hk fun q => ?_
    obtain ⟨a, b, p, l, q', f, heq⟩ := dispatchHead_frame s.now k { c with q := q }
    simp [heq, DutyRun, Sched]
  | evAlarm =>
    obtain ⟨a, b, p, l, q, f, heq⟩ := dispatchHead_frame s.now k c
    exact exists_dispatch hk (by simp [heq, DutyRun, Sched])

end Sys2Proof.Machine
end

section
/-! PROOF. The window of the host (R81, R83, R330): what one access to a slot does. -/

namespace Sys2Proof.Machine

/-- An access of 8 bytes at an offset from the base reaches the slot of that offset. -/
theorem admittedSlot_offset (base off : Nat) : admittedSlot base (base + off) 8 = slotAt off := by
  simp [admittedSlot]

theorem perform_hostRead_slot (s : State) {off : Nat} {slot : Slot} (h : slotAt off = some slot) :
    perform (.hostRead (s.params.windowBase + off) 8) s = .next { s with hostData := some (s.readSlot slot) } := by
  simp only [perform, hostRead, admittedSlot_offset, h]

theorem perform_hostWrite_slot (s : State) (v : U64) {off : Nat} {slot : Slot} (h : slotAt off = some slot)
    (hcmd : slot ≠ .cmd) :
    perform (.hostWrite (s.params.windowBase + off) 8 v) s = .next (s.writeSlot v slot) := by
  cases slot with
  | cmd => exact absurd rfl hcmd
  | _ => simp only [perform, hostWrite, admittedSlot_offset, h]

/-- Settles O12: each slot stands at its offset, so the two rules of an access give all thirteen clauses; STATUS is
read as the code of its value. -/
theorem windowReadsAndWritesItsRegisters : Obligations.WindowReadsAndWritesItsRegisters := by
  intro s v
  exact ⟨perform_hostWrite_slot s v (slot := .arg0) rfl (by decide),
    perform_hostWrite_slot s v (slot := .arg1) rfl (by decide),
    perform_hostWrite_slot s v (slot := .arg2) rfl (by decide),
    perform_hostWrite_slot s v (slot := .status) rfl (by decide),
    perform_hostWrite_slot s v (slot := .result0) rfl (by decide),
    perform_hostWrite_slot s v (slot := .result1) rfl (by decide),
    perform_hostRead_slot s (off := 0x00) (slot := .cmd) rfl,
    perform_hostRead_slot s (slot := .arg0) rfl,
    perform_hostRead_slot s (slot := .arg1) rfl,
    perform_hostRead_slot s (slot := .arg2) rfl,
    (perform_hostRead_slot s (slot := .status) rfl).trans (by simp only [State.readSlot]; cases s.status <;> rfl),
    perform_hostRead_slot s (slot := .result0) rfl,
    perform_hostRead_slot s (slot := .result1) rfl⟩

end Sys2Proof.Machine
end

section
/-! PROOF. The CMD write (R82, R103, R333): how a command begins, that it always answers, and the order of its checks. -/

namespace Sys2Proof.Machine

/-! ## Commands always answer -/

/-- An outcome that is a next state: neither a fault nor a refusal. -/
def HasNext (r : Result) : Prop := ∃ t, r = .next t

theorem hasNext_next (t : State) : HasNext (.next t) := ⟨t, rfl⟩

theorem hasNext_raise (st : Status) (s : State) : HasNext (raise st s) := hasNext_next _

theorem hasNext_withArg {α : Type} {a : Option α} {s : State} {body : α → Result} (hb : ∀ v, HasNext (body v)) :
    HasNext (withArg a s body) := by
  cases a with
  | none => exact hasNext_raise _ s
  | some v => exact hb v

theorem hasNext_onGlobal {s : State} {body : Result} (hb : HasNext body) : HasNext (onGlobal s body) := by
  unfold onGlobal
  split
  · exact hasNext_raise _ s
  · exact hb

theorem hasNext_onChannel {m : Nat} {s : State} {body : Channel → Result} (hb : ∀ c, HasNext (body c)) :
    HasNext (onChannel m s body) := by
  unfold onChannel
  apply hasNext_onGlobal
  split
  · exact hasNext_raise _ s
  · exact hb _

/-- A global command checks the halt before its body (R103). -/
theorem exec_globalCommand {i : Instr} (s : State) (he : i.isEvent = false) (hm : i.channel = none) :
    ∃ body, exec i s = onGlobal s body ∧ HasNext body := by
  cases i with
  | nop | getAlarm | getTime => exact ⟨_, rfl, hasNext_next _⟩
  | evPhase | evEdge | evVtick | evPtick | evAlarm | evTime | evReset => cases he
  | _ => cases hm

/-- A channel command checks the halt and then its channel before its body, which ends with a status whatever the
arguments are (R103, R105). -/
theorem exec_channelCommand {i : Instr} {m : Nat} (s : State) (he : i.isEvent = false) (hm : i.channel = some m) :
    ∃ body, exec i s = onChannel m s body ∧ ∀ c, HasNext (body c) := by
  cases i with
  | nop | getAlarm | getTime => cases hm
  | evPhase | evEdge | evVtick | evPtick | evAlarm | evTime | evReset => cases he
  | setVelPeriod | setMode | setInterval | queuePeek | clearFlags =>
    cases hm
    exact ⟨_, rfl, fun c => hasNext_withArg fun _ => hasNext_next _⟩
  | calibrate | setDuty =>
    cases hm
    refine ⟨_, rfl, fun c => hasNext_withArg fun _ => ?_⟩
    split <;> exact hasNext_next _
  | setOutput | compute =>
    cases hm
    refine ⟨_, rfl, fun c => ?_⟩
    split <;> exact hasNext_next _
  | setLimits | queueStatus =>
    cases hm
    refine ⟨_, rfl, fun c => ?_⟩
    dsimp only
    split <;> exact hasNext_next _
  | enqueue =>
    cases hm
    refine ⟨_, rfl, fun c =>
      hasNext_withArg fun _ => hasNext_withArg fun _ => hasNext_withArg fun _ => ?_⟩
    split <;> exact hasNext_next _
  | _ =>
    cases hm
    exact ⟨_, rfl, fun c => hasNext_next _⟩

/-- Every command answers, in every state: none faults and none is refused. -/
theorem exec_command_hasNext {i : Instr} (s : State) (he : i.isEvent = false) : HasNext (exec i s) := by
  cases hm : i.channel with
  | none =>
    obtain ⟨body, heq, hb⟩ := exec_globalCommand s he hm
    exact heq ▸ hasNext_onGlobal hb
  | some m =>
    obtain ⟨body, heq, hb⟩ := exec_channelCommand s he hm
    exact heq ▸ hasNext_onChannel hb

/-- A halted block turns every command away (R336). -/
theorem exec_command_halted {i : Instr} {s : State} (he : i.isEvent = false) (h : s.cfgHalt = true) :
    exec i s = .next (s.setStatus .configurationError) := by
  cases hm : i.channel with
  | none =>
    obtain ⟨body, heq, _⟩ := exec_globalCommand s he hm
    rw [heq, onGlobal_halted h]
  | some m =>
    obtain ⟨body, heq, _⟩ := exec_channelCommand s he hm
    rw [heq, onChannel_halted m h]

/-- A command for a channel that does not exist is turned away (R103). -/
theorem exec_command_missing {i : Instr} {s : State} {m : Nat} (he : i.isEvent = false) (hm : i.channel = some m)
    (h : s.cfgHalt = false) (hlen : s.chans.length ≤ m) : exec i s = .next (s.setStatus .invalidArgument) := by
  obtain ⟨body, heq, _⟩ := exec_channelCommand s he hm
  rw [heq, onChannel_missing h hlen]

/-! ## The CMD write -/

theorem upperClear_iff {v : U64} : UpperClear v ↔ v.extractLsb' 32 32 = 0 := by
  rw [← BitVec.toNat_inj]
  have hlt : v.toNat < 2 ^ 64 := v.isLt
  simp only [BitVec.extractLsb'_toNat, Nat.shiftRight_eq_div_pow, BitVec.ofNat_eq_ofNat, BitVec.toNat_ofNat, UpperClear]
  omega

/-- Nonzero upper bits are reported before everything else (R82, R333). -/
theorem commandWrite_upper {v : U64} (s : State) (h : ¬UpperClear v) :
    commandWrite v s = .next { s with cmd := v.setWidth 32, status := .illegalCommand } :=
  if_pos (mt upperClear_iff.mpr h)

/-- With clear upper bits the word stands in G.CMD and runs. -/
theorem commandWrite_word {v : U64} (s : State) (h : UpperClear v) :
    commandWrite v s = runCommandWord (v.setWidth 32) { s with cmd := v.setWidth 32 } :=
  if_neg (not_not.mpr (upperClear_iff.mp h))

theorem runCommandWord_ok {w : U32} {i : Instr} (s : State) (h : decodeCommand w = .ok i) :
    runCommandWord w s = exec i s := by
  simp only [runCommandWord, h]

theorem runCommandWord_noCommand {w : U32} (s : State) (h : ∀ i, decodeCommand w ≠ .ok i) :
    runCommandWord w s = rejectWord s := by
  cases hd : decodeCommand w with
  | ok i => exact absurd hd (h i)
  | error e => simp only [runCommandWord, hd]

theorem rejectWord_ready {s : State} (h : s.cfgHalt = false) :
    rejectWord s = .next (s.setStatus .illegalCommand) :=
  onGlobal_ready h _

theorem rejectWord_halted {s : State} (h : s.cfgHalt = true) :
    rejectWord s = .next (s.setStatus .configurationError) :=
  onGlobal_halted h _

/-- The halt is reported for every word, whether it is a command or not (R333). -/
theorem runCommandWord_halted (w : U32) {s : State} (h : s.cfgHalt = true) :
    runCommandWord w s = .next (s.setStatus .configurationError) := by
  cases hd : decodeCommand w with
  | ok i => rw [runCommandWord_ok s hd, exec_command_halted (decodeCommand_isEvent hd) h]
  | error e =>
    rw [runCommandWord_noCommand s (by simp [hd]), rejectWord_halted h]

/-- Every CMD write answers. -/
theorem commandWrite_hasNext (v : U64) (s : State) : HasNext (commandWrite v s) := by
  rcases commandWrite_cases v s with ⟨st, _, _, heq⟩ | ⟨i, _, hd, heq⟩
  · exact ⟨_, heq⟩
  · exact heq ▸ exec_command_hasNext _ (decodeCommand_isEvent hd)

/-- Settles O6: one lemma for each check, in the order of R333. -/
theorem commandChecksRunInOrder : Obligations.CommandChecksRunInOrder := by
  intro s v
  refine ⟨commandWrite_upper s, fun hu hh => ?_, fun hu hh hd => ?_, fun i hu hh hd => ?_⟩
  · rw [commandWrite_word s hu]
    exact runCommandWord_halted _ hh
  · rw [commandWrite_word s hu, runCommandWord_noCommand _ hd]
    exact rejectWord_ready hh
  · have hexec : commandWrite v s = exec i { s with cmd := v.setWidth 32 } := by
      rw [commandWrite_word s hu, runCommandWord_ok _ hd]
    refine ⟨hexec, fun m hm hlen => ?_⟩
    rw [hexec]
    exact exec_command_missing (decodeCommand_isEvent hd) hm hh hlen

/-- A 64-bit value that is a word written out has clear upper bits. -/
theorem upperClear_setWidth (w : U32) : UpperClear (w.setWidth 64) := by
  rw [UpperClear, BitVec.toNat_setWidth]
  exact (Nat.mod_le _ _).trans_lt w.isLt

/-- An 8-byte write at the base of the window is a CMD write (R81, R82). -/
theorem perform_hostWrite_cmd (s : State) (v : U64) :
    perform (.hostWrite s.params.windowBase 8 v) s = commandWrite v s := by
  have hslot : admittedSlot s.params.windowBase s.params.windowBase 8 = some .cmd :=
    admittedSlot_offset s.params.windowBase 0x00
  simp only [perform, hostWrite, hslot]

/-- Settles O7: the move is a CMD write whose value is the word itself, and the word decodes. -/
theorem stepRunsTheDecodedCommand : Obligations.StepRunsTheDecodedCommand := by
  intro s w i rest hag hd
  have hword : (w.setWidth 64).setWidth 32 = w := by simp
  calc step s
      = perform (.hostWrite s.params.windowBase 8 (w.setWidth 64)) { s with agenda := rest } := by
        simp only [step, hag]
    _ = commandWrite (w.setWidth 64) { s with agenda := rest } := perform_hostWrite_cmd { s with agenda := rest } _
    _ = runCommandWord w { s with agenda := rest, cmd := w } := by
        rw [commandWrite_word _ (upperClear_setWidth w), hword]
    _ = exec i { s with agenda := rest, cmd := w } := runCommandWord_ok _ hd

end Sys2Proof.Machine
end

section
/-! PROOF. Which accesses the window admits (R85, R87), and the order of its bytes (R84). -/

namespace Sys2Proof.Machine

/-- A slot stands at every multiple of 8 below 0x38 and nowhere else (R81). -/
theorem exists_slotAt {off : Nat} : (∃ slot, slotAt off = some slot) ↔ off % 8 = 0 ∧ off < 0x38 := by
  refine ⟨fun ⟨_, h⟩ => slotAt_some h, fun ⟨hmod, hlt⟩ => ?_⟩
  have hoff : off = 0x00 ∨ off = 0x08 ∨ off = 0x10 ∨ off = 0x18 ∨ off = 0x20 ∨ off = 0x28 ∨ off = 0x30 := by omega
  rcases hoff with rfl | rfl | rfl | rfl | rfl | rfl | rfl <;> exact ⟨_, rfl⟩

/-- The accesses that reach a slot are those that R85 admits. -/
theorem exists_admittedSlot {base addr width : Nat} :
    (∃ slot, admittedSlot base addr width = some slot) ↔
      width = 8 ∧ base ≤ addr ∧ (addr - base) % 8 = 0 ∧ addr - base < 0x38 := by
  simp only [admittedSlot_some, exists_and_left, exists_slotAt, and_assoc]

theorem hostWrite_hasNext {addr width : Nat} (v : U64) {s : State} {slot : Slot}
    (h : admittedSlot s.params.windowBase addr width = some slot) : HasNext (hostWrite addr width v s) := by
  cases slot with
  | cmd => simpa only [hostWrite, h] using commandWrite_hasNext v s
  | _ => simpa only [hostWrite, h] using hasNext_next _

theorem hostRead_hasNext {addr width : Nat} {s : State} {slot : Slot}
    (h : admittedSlot s.params.windowBase addr width = some slot) : HasNext (hostRead addr width s) := by
  simpa only [hostRead, h] using hasNext_next _

theorem hostWrite_notAdmitted {addr width : Nat} (v : U64) {s : State}
    (h : admittedSlot s.params.windowBase addr width = none) :
    hostWrite addr width v s = .fault .accessNotAdmitted := by
  simp only [hostWrite, h]

theorem hostRead_notAdmitted {addr width : Nat} {s : State}
    (h : admittedSlot s.params.windowBase addr width = none) :
    hostRead addr width s = .fault .accessNotAdmitted := by
  simp only [hostRead, h]

/-- Settles O11: an access that reaches a slot answers, a CMD write too since every command does; one that reaches none
has no step. -/
theorem windowAdmitsExactlyAlignedSlots : Obligations.WindowAdmitsExactlyAlignedSlots := by
  intro s addr width v
  refine ⟨fun h => ?_, fun h => ?_⟩
  · obtain ⟨slot, hslot⟩ := exists_admittedSlot.mpr h
    exact ⟨hostWrite_hasNext v hslot, hostRead_hasNext hslot⟩
  · have hnone : admittedSlot s.params.windowBase addr width = none :=
      Option.eq_none_iff_forall_ne_some.mpr fun slot hslot => h (exists_admittedSlot.mp ⟨slot, hslot⟩)
    exact ⟨hostWrite_notAdmitted v hnone, hostRead_notAdmitted hnone⟩

/-- Settles O13: the offset of a slot is a multiple of 8, so division by 8 gives the slot back and its remainder is the
number of the byte. -/
theorem windowBytesAreLittleEndian : Obligations.WindowBytesAreLittleEndian := by
  intro s off k slot hslot hk
  have hmod : off % 8 = 0 := (slotAt_some hslot).1
  have hoff : (off + k) / 8 * 8 = off := by omega
  have hbyte : (off + k) % 8 * 8 = 8 * k := by omega
  simp only [State.readByte, Nat.add_assoc, Nat.le_add_right, ↓reduceIte, Nat.add_sub_cancel_left, hoff, hbyte, hslot,
    Option.map_some]

end Sys2Proof.Machine
end

section
/-! PROOF. The two word formats (R101, R102): an encoded instruction decodes to itself, and a word that decodes is the
word of its instruction. -/

namespace Sys2Proof

/-! ## The fields of a word as numbers -/

theorem opcodeField_toNat (w : U32) : (opcodeField w).toNat = w.toNat / 2 ^ 24 := by
  have hlt : w.toNat < 2 ^ 32 := w.isLt
  simp only [opcodeField, BitVec.extractLsb'_toNat, Nat.shiftRight_eq_div_pow]
  omega

theorem motorField_toNat (w : U32) : (motorField w).toNat = w.toNat / 2 ^ 20 % 16 := by
  simp only [motorField, BitVec.extractLsb'_toNat, Nat.shiftRight_eq_div_pow]

theorem rsvField_toNat (w : U32) : (rsvField w).toNat = w.toNat % 2 ^ 20 := by
  simp only [rsvField, BitVec.extractLsb'_toNat, Nat.shiftRight_zero]

/-! ## The fields of an encoded instruction -/

theorem opcodeField_encodeWord (i : Instr) : opcodeField (encodeWord i) = i.opcode := (word_fields _ _ _).1

theorem motorField_encodeWord (i : Instr) : motorField (encodeWord i) = i.motorBits := (word_fields _ _ _).2.1

theorem rsvField_encodeWord (i : Instr) : rsvField (encodeWord i) = i.lowBits := (word_fields _ _ _).2.2

theorem motorBits_of_global {i : Instr} (h : i.channel = none) : i.motorBits = 0 := by
  simp [Instr.motorBits, h]

theorem motorBits_toNat {i : Instr} {m : Nat} (h : i.channel = some m) (hm : m < 16) : i.motorBits.toNat = m := by
  simp [Instr.motorBits, h, Nat.mod_eq_of_lt hm]

/-! ## The decoder row by row -/

/-- The instruction a row reads from a word and the record's ARG0, where the checks of the row pass (R101, R102). -/
def Row.Reads (w : U32) (a : U64) : Row → Instr → Prop
  | .whole j, i => rsvField w = 0 ∧ motorField w = 0 ∧ i = j
  | .channel mk, i => rsvField w = 0 ∧ i = mk (motorField w).toNat
  | .phase, i => phaseRsvField w = 0 ∧ i = .evPhase (motorField w).toNat (w.getLsbD 1) (w.getLsbD 0)
  | .time, i => rsvField w = 0 ∧ motorField w = 0 ∧ i = .evTime a.toNat

/-- One check of the decoder: it passes, and the rest answers. -/
theorem check_eq_ok {p : Prop} [Decidable p] {e : DecodeError} {rest : Except DecodeError Instr} {i : Instr} :
    (if p then .error e else rest) = .ok i ↔ ¬p ∧ rest = .ok i := by
  split_ifs with h <;> simp [h]

/-- The decoder answers with what the row of the opcode reads. -/
theorem decodeWord_ok_iff {w : U32} {a : U64} {i : Instr} :
    decodeWord w a = .ok i ↔ ∃ r, rowOf (opcodeField w) = some r ∧ r.Reads w a i := by
  unfold decodeWord
  cases rowOf (opcodeField w) with
  | none => simp
  | some r =>
    simp only [Option.some.injEq, exists_eq_left']
    cases r <;> simp only [Row.Reads, check_eq_ok, ne_eq, not_not, Except.ok.injEq, eq_comm (a := i)]

theorem decodeCommand_ok_iff {w : U32} {i : Instr} :
    decodeCommand w = .ok i ↔ decodeWord w 0 = .ok i ∧ i.isEvent = false := by
  unfold decodeCommand
  cases decodeWord w 0 with
  | error e => simp
  | ok j =>
    simp only [check_eq_ok, Except.ok.injEq, Bool.not_eq_true]
    constructor
    · rintro ⟨he, rfl⟩
      exact ⟨rfl, he⟩
    · rintro ⟨rfl, he⟩
      exact ⟨he, rfl⟩

/-! ## Decoding an encoded instruction -/

/-- The row of a well-formed instruction's opcode reads the instruction from its own word. -/
theorem exists_row_reads_encodeWord {i : Instr} (h : i.wellFormed = true) :
    ∃ r, rowOf i.opcode = some r ∧ r.Reads (encodeWord i) i.recordArg0 i := by
  have hrsv := rsvField_encodeWord i
  have hmotor := motorField_encodeWord i
  cases i with
  | nop | getAlarm | getTime | evAlarm | evReset => exact ⟨_, rfl, hrsv, hmotor, rfl⟩
  | evTime d =>
    have hd : d < 2 ^ 64 := of_decide_eq_true h
    exact ⟨_, rfl, hrsv, hmotor, congrArg Instr.evTime (Nat.mod_eq_of_lt hd).symm⟩
  | evPhase m x y =>
    have hm : m < 16 := of_decide_eq_true h
    obtain ⟨hlow, hx, hy⟩ := phase_fields 0xE0#8 (BitVec.ofNat 4 m) x y
    refine ⟨_, rfl, hlow, ?_⟩
    rw [hmotor, motorBits_toNat rfl hm]
    exact (congrArg₂ (Instr.evPhase m) hx hy).symm
  | _ m =>
    have hm : m < 16 := of_decide_eq_true h
    refine ⟨_, rfl, hrsv, ?_⟩
    rw [hmotor, motorBits_toNat rfl hm]

theorem decodeWord_encodeWord {i : Instr} (h : i.wellFormed = true) :
    decodeWord (encodeWord i) i.recordArg0 = .ok i := by
  rw [decodeWord_ok_iff, opcodeField_encodeWord]
  exact exists_row_reads_encodeWord h

/-- A record whose bytes are those of a word, and for EV_TIME at least eight more, is decoded as that word. -/
theorem decode_wordBytes (w : U32) (rest : List Byte) (h : opcodeField w = 0xE5#8 → 8 ≤ rest.length) :
    decode (leBytes 4 w.toNat ++ rest) = decodeWord w (BitVec.ofNat 64 (leNat (rest.take 8))) := by
  have hlen : (leBytes 4 w.toNat).length = 4 := leBytes_length 4 _
  have hword : BitVec.ofNat 32 (leNat (leBytes 4 w.toNat)) = w := by
    rw [leNat_leBytes]
    exact BitVec.eq_of_toNat_eq ((Nat.mod_mod _ _).trans (Nat.mod_eq_of_lt w.isLt))
  have hlong : ¬(opcodeField w = 0xE5#8 ∧ 4 + rest.length < 12) := fun ⟨hop, hlt⟩ => by
    have := h hop
    omega
  simp only [decode, List.length_append, hlen, List.take_left' hlen, List.drop_left' hlen, hword, if_neg hlong,
    if_neg (show ¬4 + rest.length < 4 by omega)]

/-- Only EV_TIME has the opcode whose record goes on after the word (R102). -/
theorem opcode_eq_evTime {i : Instr} (h : i.opcode = 0xE5#8) : ∃ d, i = .evTime d := by
  cases i with
  | evTime d => exact ⟨d, rfl⟩
  | _ => exact absurd h (by simp only [Instr.opcode]; decide)

theorem encode_of_ne_evTime {i : Instr} (h : ∀ d, i ≠ .evTime d) : encode i = leBytes 4 (encodeWord i).toNat := by
  cases i with
  | evTime d => exact absurd rfl (h d)
  | _ => exact List.append_nil _

theorem recordArg0_of_ne_evTime {i : Instr} (h : ∀ d, i ≠ .evTime d) : i.recordArg0 = 0 := by
  cases i with
  | evTime d => exact absurd rfl (h d)
  | _ => rfl

/-- The bytes of an instruction's record are decoded as its word and its ARG0. -/
theorem decode_encode (i : Instr) : decode (encode i) = decodeWord (encodeWord i) i.recordArg0 := by
  by_cases htime : ∃ d, i = .evTime d
  · obtain ⟨d, rfl⟩ := htime
    have hlen : (leBytes 8 d).length = 8 := leBytes_length 8 d
    have harg : BitVec.ofNat 64 (leNat ((leBytes 8 d).take 8)) = BitVec.ofNat 64 d := by
      rw [List.take_of_length_le hlen.le, leNat_leBytes]
      exact BitVec.eq_of_toNat_eq (Nat.mod_mod _ _)
    exact (decode_wordBytes (encodeWord (.evTime d)) _ fun _ => hlen.ge).trans (by rw [harg]; rfl)
  · have hne : ∀ d, i ≠ .evTime d := fun d hd => htime ⟨d, hd⟩
    have hop : opcodeField (encodeWord i) ≠ 0xE5#8 := fun hop =>
      htime (opcode_eq_evTime ((opcodeField_encodeWord i).symm.trans hop))
    rw [encode_of_ne_evTime hne, recordArg0_of_ne_evTime hne, ← List.append_nil (leBytes 4 _)]
    exact decode_wordBytes (encodeWord i) [] fun h => absurd h hop

/-- Settles O1: the bytes are those of the word and ARG0 the encoder made, and the row of the opcode reads the
instruction back from their fields. -/
theorem decodeOfEncodeIsIdentity : Obligations.DecodeOfEncodeIsIdentity := fun i h =>
  (decode_encode i).trans (decodeWord_encodeWord h)

/-! ## Encoding a decoded instruction -/

/-- The instruction has no operand in its word or record but its channel. -/
def Instr.plain : Instr → Bool
  | .evPhase _ _ _ => false
  | .evTime _ => false
  | _ => true

theorem lowBits_of_plain {i : Instr} (h : i.plain = true) : i.lowBits = 0 := by
  cases i with
  | evPhase m x y => cases h
  | _ => rfl

theorem ne_evTime_of_plain {i : Instr} (h : i.plain = true) (d : Nat) : i ≠ .evTime d := by
  rintro rfl
  cases h

theorem wellFormed_of_channel_lt {i : Instr} (ht : ∀ d, i ≠ .evTime d) (h : ∀ m, i.channel = some m → m < 16) :
    i.wellFormed = true := by
  cases i with
  | nop | getAlarm | getTime | evAlarm | evReset => rfl
  | evTime d => exact absurd rfl (ht d)
  | _ => exact decide_eq_true (h _ rfl)

/-- A row of the opcode map belongs to the opcode, the channel and the kind of its instructions. -/
def Row.Fits (op : BitVec 8) : Row → Prop
  | .whole i => i.opcode = op ∧ i.channel = none ∧ i.plain = true
  | .channel mk => ∀ m, (mk m).opcode = op ∧ (mk m).channel = some m ∧ (mk m).plain = true
  | .phase => op = 0xE0#8
  | .time => op = 0xE5#8

/-- The opcode map and the encoder's opcodes agree on every row (R106, R110). -/
theorem opcodeMap_fits : ∀ p ∈ opcodeMap, p.2.Fits p.1 := by
  simp [opcodeMap, encoderRows, samplerRows, pidRows, motorRows, schedulerRows, systemRows, eventRows, Row.Fits,
    Instr.opcode, Instr.channel, Instr.plain]

theorem fits_of_rowOf {op : BitVec 8} {r : Row} (h : rowOf op = some r) : r.Fits op := opcodeMap_fits _ (mem_of_rowOf h)

theorem motorBits_of_some {i : Instr} {b : BitVec 4} (h : i.channel = some b.toNat) : i.motorBits = b := by
  simp [Instr.motorBits, h]

theorem encodeWord_of_fields {i : Instr} {w : U32} (hop : i.opcode = opcodeField w) (hmotor : i.motorBits = motorField w)
    (hlow : i.lowBits = rsvField w) : encodeWord i = w := by
  rw [encodeWord, hop, hmotor, hlow, word_of_fields]

/-- What a word decodes to has the word's opcode; it is EV_PHASE with the levels of bits 1 and 0, EV_TIME with the record's
ARG0, or an instruction without such an operand, whose channel is the MOTOR field if it has one. -/
theorem decodeWord_cases {w : U32} {a : U64} {i : Instr} (h : decodeWord w a = .ok i) :
    i.opcode = opcodeField w ∧
      ((i.plain = true ∧ rsvField w = 0 ∧
          (i.channel = none ∧ motorField w = 0 ∨ i.channel = some (motorField w).toNat)) ∨
        (phaseRsvField w = 0 ∧ i = .evPhase (motorField w).toNat (w.getLsbD 1) (w.getLsbD 0)) ∨
        (rsvField w = 0 ∧ motorField w = 0 ∧ i = .evTime a.toNat)) := by
  obtain ⟨r, hrow, hreads⟩ := decodeWord_ok_iff.mp h
  have hfit := fits_of_rowOf hrow
  cases r with
  | whole j =>
    obtain ⟨hrsv, hmotor, rfl⟩ := hreads
    obtain ⟨hop, hchan, hplain⟩ := hfit
    exact ⟨hop, .inl ⟨hplain, hrsv, .inl ⟨hchan, hmotor⟩⟩⟩
  | channel mk =>
    obtain ⟨hrsv, rfl⟩ := hreads
    obtain ⟨hop, hchan, hplain⟩ := hfit (motorField w).toNat
    exact ⟨hop, .inl ⟨hplain, hrsv, .inr hchan⟩⟩
  | phase =>
    obtain ⟨hrsv, rfl⟩ := hreads
    exact ⟨hfit.symm, .inr (.inl ⟨hrsv, rfl⟩)⟩
  | time =>
    obtain ⟨hrsv, hmotor, rfl⟩ := hreads
    exact ⟨hfit.symm, .inr (.inr ⟨hrsv, hmotor, rfl⟩)⟩

/-- Settles O2: the checks of a row leave a decoded word no bits but the opcode, the MOTOR field and the levels, and those
are the fields the encoder writes. -/
theorem decodedWordIsTheEncodedWord : Obligations.DecodedWordIsTheEncodedWord := by
  intro w a i h
  have hmotor_lt : (motorField w).toNat < 16 := (motorField w).isLt
  obtain ⟨hop, ⟨hplain, hrsv, hchan⟩ | ⟨hrsv, rfl⟩ | ⟨hrsv, hmotor, rfl⟩⟩ := decodeWord_cases h
  · have htime := ne_evTime_of_plain hplain
    have hlow : i.lowBits = rsvField w := (lowBits_of_plain hplain).trans hrsv.symm
    rcases hchan with ⟨hnone, hmotor⟩ | hsome
    · exact ⟨wellFormed_of_channel_lt htime (by simp [hnone]),
        encodeWord_of_fields hop ((motorBits_of_global hnone).trans hmotor.symm) hlow, fun d hd => absurd hd (htime d)⟩
    · exact ⟨wellFormed_of_channel_lt htime (by simp [hsome, hmotor_lt]),
        encodeWord_of_fields hop (motorBits_of_some hsome) hlow, fun d hd => absurd hd (htime d)⟩
  · have hlow : rsvField w = 0#18 ++ BitVec.ofBool (w.getLsbD 1) ++ BitVec.ofBool (w.getLsbD 0) := by
      rw [low_of_phase_fields, hrsv]
      rfl
    exact ⟨decide_eq_true hmotor_lt, encodeWord_of_fields hop (motorBits_of_some rfl) hlow.symm, fun d hd => by cases hd⟩
  · exact ⟨decide_eq_true a.isLt, encodeWord_of_fields hop hmotor.symm hrsv.symm, fun d hd => by cases hd; rfl⟩

/-! ## Words written out -/

theorem decodeCommand_encodeWord {i : Instr} (h : i.wellFormed = true) (he : i.isEvent = false) :
    decodeCommand (encodeWord i) = .ok i := by
  refine decodeCommand_ok_iff.mpr ⟨?_, he⟩
  have hne : ∀ d, i ≠ .evTime d := by
    rintro d rfl
    cases he
  exact recordArg0_of_ne_evTime hne ▸ decodeWord_encodeWord h

/-- Settles O3: each word is the word of its instruction, so it decodes to it. -/
theorem writtenWordsDecode : Obligations.WrittenWordsDecode :=
  ⟨⟨decodeCommand_encodeWord (i := .nop) rfl rfl, decodeCommand_encodeWord (i := .edReset 3) rfl rfl,
      decodeCommand_encodeWord (i := .calibrate 0) rfl rfl, decodeCommand_encodeWord (i := .setTunings 15) rfl rfl,
      decodeCommand_encodeWord (i := .enable 1) rfl rfl, decodeCommand_encodeWord (i := .enqueue 1) rfl rfl,
      decodeCommand_encodeWord (i := .getAlarm) rfl rfl, decodeCommand_encodeWord (i := .clearFlags 1) rfl rfl⟩,
    decodeWord_encodeWord (i := .evPhase 0 true false) rfl, decodeWord_encodeWord (i := .evPhase 1 false true) rfl,
    decodeWord_encodeWord (i := .evEdge 1) rfl, decodeWord_encodeWord (i := .evVtick 0) rfl,
    decodeWord_encodeWord (i := .evPtick 0) rfl, decodeWord_encodeWord (i := .evAlarm) rfl,
    decodeWord_encodeWord (i := .evTime 100000) rfl, decodeWord_encodeWord (i := .evReset) rfl⟩

end Sys2Proof
end

section
/-! PROOF. Which command words are no command, and what a CMD write does with them (R105 to R109); words written out by
opcode and channel. -/

namespace Sys2Proof.Machine

/-! ## Opcodes (R105 to R108) -/

/-- The opcodes of the global commands (R106). -/
abbrev GlobalOpcode (op : Nat) : Prop := op = 0x00 ∨ op = 0x44 ∨ op = 0x50

/-- The opcodes of the channel commands (R105, R106). -/
abbrev ChannelOpcode (op : Nat) : Prop :=
  (0x01 ≤ op ∧ op ≤ 0x04) ∨ (0x10 ≤ op ∧ op ≤ 0x14) ∨ (0x20 ≤ op ∧ op ≤ 0x27) ∨ (0x30 ≤ op ∧ op ≤ 0x34) ∨
    (0x40 ≤ op ∧ op ≤ 0x43) ∨ (0x51 ≤ op ∧ op ≤ 0x52)

/-- Every command is global or of a channel, and its opcode says which. -/
theorem opcode_of_command {i : Instr} (h : i.isEvent = false) :
    (i.channel = none ∧ GlobalOpcode i.opcode.toNat) ∨ ((∃ m, i.channel = some m) ∧ ChannelOpcode i.opcode.toNat) := by
  cases i with
  | nop | getAlarm | getTime => exact .inl ⟨rfl, by decide⟩
  | evPhase | evEdge | evVtick | evPtick | evAlarm | evTime | evReset => cases h
  | _ m => exact .inr ⟨⟨m, rfl⟩, by simp only [Instr.opcode]; decide⟩

/-- The event codes begin at 0xE0, above every opcode of a command (R108). -/
theorem isEvent_eq (i : Instr) : i.isEvent = decide (0xE0 ≤ i.opcode.toNat) := by cases i <;> rfl

/-- The opcode of each channel command has a row that takes the channel from the MOTOR field. -/
theorem rowOf_channelOpcode {op : BitVec 8} (h : ChannelOpcode op.toNat) : ∃ mk, rowOf op = some (.channel mk) := by
  have hop : op = BitVec.ofNat 8 op.toNat := by simp
  generalize op.toNat = n at h hop
  subst hop
  rcases h with ⟨hlo, hhi⟩ | ⟨hlo, hhi⟩ | ⟨hlo, hhi⟩ | ⟨hlo, hhi⟩ | ⟨hlo, hhi⟩ | ⟨hlo, hhi⟩ <;>
    interval_cases n <;> exact ⟨_, rfl⟩

/-! ## Words that are no command -/

/-- A word that decodes to a command has no bits below the MOTOR field, which is 0 in a global one (R101). -/
theorem fields_of_decodeCommand {w : U32} {i : Instr} (h : decodeCommand w = .ok i) :
    rsvField w = 0 ∧
      ((GlobalOpcode (opcodeField w).toNat ∧ motorField w = 0) ∨ ChannelOpcode (opcodeField w).toNat) := by
  obtain ⟨hword, he⟩ := decodeCommand_ok_iff.mp h
  obtain ⟨hop, ⟨_, hrsv, hchan⟩ | ⟨_, rfl⟩ | ⟨_, _, rfl⟩⟩ := decodeWord_cases hword
  · refine ⟨hrsv, ?_⟩
    rcases opcode_of_command he with ⟨hnone, hglobal⟩ | ⟨_, hchannel⟩
    · rcases hchan with ⟨_, hmotor⟩ | hsome
      · exact .inl ⟨hop ▸ hglobal, hmotor⟩
      · simp [hnone] at hsome
    · exact .inr (hop ▸ hchannel)
  · cases he
  · cases he

/-- A word with a channel command's opcode and no reserved bits decodes to a command of the channel MOTOR. -/
theorem decodeCommand_channelOpcode {w : U32} (hop : ChannelOpcode (opcodeField w).toNat) (hrsv : rsvField w = 0) :
    ∃ i, decodeCommand w = .ok i ∧ i.channel = some (motorField w).toNat := by
  obtain ⟨mk, hrow⟩ := rowOf_channelOpcode hop
  obtain ⟨hopc, hchan, _⟩ := fits_of_rowOf hrow (motorField w).toNat
  have he : (mk (motorField w).toNat).isEvent = false := by
    rw [isEvent_eq, hopc, decide_eq_false_iff_not]
    omega
  exact ⟨_, decodeCommand_ok_iff.mpr ⟨decodeWord_ok_iff.mpr ⟨_, hrow, hrsv, rfl⟩, he⟩, hchan⟩

/-! ## The CMD write of a word that is no command -/

theorem toNat_setWidth_of_upperClear {v : U64} (h : UpperClear v) : (v.setWidth 32 : U32).toNat = v.toNat := by
  rw [BitVec.toNat_setWidth, Nat.mod_eq_of_lt h]

/-- A CMD write with clear upper bits is ILLEGAL_COMMAND and nothing else, unless its fields are those of a command. -/
theorem commandWrite_illegal {s : State} {v : U64} (hu : UpperClear v) (hh : s.cfgHalt = false)
    (hbad : v.toNat % 2 ^ 20 = 0 → ¬((GlobalOpcode (v.toNat / 2 ^ 24) ∧ v.toNat / 2 ^ 20 % 16 = 0) ∨
      ChannelOpcode (v.toNat / 2 ^ 24))) :
    commandWrite v s = .next { s with cmd := v.setWidth 32, status := .illegalCommand } := by
  obtain ⟨_, _, hnoCommand, _⟩ := commandChecksRunInOrder s v
  refine hnoCommand hu hh fun i hi => ?_
  obtain ⟨hrsv, hop⟩ := fields_of_decodeCommand hi
  rw [← BitVec.toNat_inj, rsvField_toNat, toNat_setWidth_of_upperClear hu] at hrsv
  rw [← BitVec.toNat_inj, motorField_toNat, opcodeField_toNat, toNat_setWidth_of_upperClear hu] at hop
  exact hbad hrsv hop

/-- Settles O4: no command has an opcode in these ranges. -/
theorem reservedAndEventOpcodesAreIllegal : Obligations.ReservedAndEventOpcodesAreIllegal := by
  intro s v hu hh hop
  refine commandWrite_illegal hu hh fun _ => ?_
  dsimp only at hop
  omega

/-- Settles O5: the first two kinds of word decode to no command, the third to a command of a channel that does not
exist. -/
theorem malformedCommandWordsAreRejected : Obligations.MalformedCommandWordsAreRejected := by
  intro s v hu hh
  refine ⟨fun hrsv => ?_, fun hop hmotor => ?_, fun hrsv hop hlen => ?_⟩
  · exact commandWrite_illegal hu hh fun h => absurd h hrsv
  · refine commandWrite_illegal hu hh fun _ => ?_
    omega
  · have hnat := toNat_setWidth_of_upperClear hu
    obtain ⟨i, hi, hchan⟩ := decodeCommand_channelOpcode (w := v.setWidth 32)
      (by rw [opcodeField_toNat, hnat]; exact hop)
      (BitVec.eq_of_toNat_eq (by rw [rsvField_toNat, hnat]; exact hrsv))
    rw [motorField_toNat, hnat] at hchan
    obtain ⟨_, _, _, hcommand⟩ := commandChecksRunInOrder s v
    obtain ⟨_, hmissing⟩ := hcommand i hu hh hi
    exact hmissing _ hchan hlen

/-! ## Words written out by opcode and channel -/

/-- The word of a channel instruction without another operand (R101, R102). -/
theorem encodeWord_eq_wordOf {i : Instr} {m : Nat} (hplain : i.plain = true) (hchan : i.channel = some m) (hm : m < 16) :
    encodeWord i = wordOf i.opcode.toNat m := by
  have hop : i.opcode.toNat < 2 ^ 8 := i.opcode.isLt
  have hnat : (wordOf i.opcode.toNat m).toNat = i.opcode.toNat * 2 ^ 24 + m * 2 ^ 20 := by
    rw [wordOf, BitVec.toNat_ofNat]
    omega
  refine encodeWord_of_fields (BitVec.eq_of_toNat_eq ?_) (BitVec.eq_of_toNat_eq ?_) (BitVec.eq_of_toNat_eq ?_)
  · rw [opcodeField_toNat, hnat]
    omega
  · rw [motorField_toNat, hnat, motorBits_toNat hchan hm]
    omega
  · rw [rsvField_toNat, hnat, lowBits_of_plain hplain]
    show 0 = _
    omega

/-- The word with a channel instruction's opcode and MOTOR `m` decodes to that instruction on channel `m`. -/
theorem decodeWord_wordOf {i : Instr} {m : Nat} (hplain : i.plain = true) (hchan : i.channel = some m) (hm : m < 16) :
    decodeWord (wordOf i.opcode.toNat m) 0 = .ok i := by
  have hne := ne_evTime_of_plain hplain
  have hwf : i.wellFormed = true := wellFormed_of_channel_lt hne (by simpa [hchan] using hm)
  rw [← encodeWord_eq_wordOf hplain hchan hm, ← recordArg0_of_ne_evTime hne, decodeWord_encodeWord hwf]

theorem decodeCommand_wordOf {i : Instr} {m : Nat} (hplain : i.plain = true) (hchan : i.channel = some m)
    (he : i.isEvent = false) (hm : m < 16) : decodeCommand (wordOf i.opcode.toNat m) = .ok i :=
  decodeCommand_ok_iff.mpr ⟨decodeWord_wordOf hplain hchan hm, he⟩

/-- Settles O26: the words decode by the format, and on a ready channel each read is its two results and its status. -/
theorem samplerReadsReturnTheirRegisters : Obligations.SamplerReadsReturnTheirRegisters := by
  refine ⟨fun m hm => ⟨decodeCommand_wordOf (i := .getCalibration m) rfl rfl rfl hm,
    decodeCommand_wordOf (i := .getVelocity m) rfl rfl rfl hm,
    decodeCommand_wordOf (i := .getVelPeriod m) rfl rfl rfl hm⟩, fun s m c h => ?_⟩
  simp only [BitVec.ofNat_toNat]
  exact ⟨onChannel_ready h _, onChannel_ready h _, onChannel_ready h _⟩

end Sys2Proof.Machine
end

section
/-! PROOF. Events: the step of an event record (R100, R102, R110), and which internal events are enabled (R339). -/

namespace Sys2Proof.Machine

theorem runEvent_ok {w : U32} {a : U64} {i : Instr} (s : State) (h : decodeWord w a = .ok i) (he : i.isEvent = true) :
    runEvent w a s = exec i s := by
  simp only [runEvent, h, he, ↓reduceIte]

/-- Settles O8: the move is the record, and the record is the event it decodes to. -/
theorem stepRunsTheDecodedEvent : Obligations.StepRunsTheDecodedEvent := by
  intro s w a i rest hag hd he
  calc step s = runEvent w a { s with agenda := rest } := by simp only [step, hag, perform]
    _ = exec i { s with agenda := rest } := runEvent_ok _ hd he

/-! ## The enable conditions (R110) -/

theorem edgeEnabled_iff {s : State} {c : Channel} : edgeEnabled s c = true ↔ s.cfgHalt = false ∧ c.edPend = true := by
  simp [edgeEnabled, and_comm]

theorem vtickEnabled_iff {s : State} {c : Channel} :
    vtickEnabled s c = true ↔ s.cfgHalt = false ∧ c.vNext.toNat ≤ s.now.toNat := by
  simp [vtickEnabled, and_comm]

theorem ptickEnabled_iff {s : State} {c : Channel} :
    ptickEnabled s c = true ↔ s.cfgHalt = false ∧ c.pidMode = .automatic ∧
      (s.now.toNat : Int) - c.pidLast.toNat ≥ (c.pidTMs.toNat : Int) * 1000 := by
  simp [ptickEnabled, pidDue, and_comm]

theorem alarmEnabled_iff {s : State} :
    alarmEnabled s = true ↔ s.cfgHalt = false ∧ s.alarmArm = true ∧ s.alarmAt.toNat ≤ s.now.toNat := by
  simp [alarmEnabled, and_comm]

/-! ## The list of enabled events -/

theorem mem_enabledOnChannel {s : State} {m : Nat} {i : Instr} :
    i ∈ enabledOnChannel s m ↔ ∃ c, s.chans[m]? = some c ∧
      ((i = .evEdge m ∧ edgeEnabled s c = true) ∨ (i = .evVtick m ∧ vtickEnabled s c = true) ∨
        (i = .evPtick m ∧ ptickEnabled s c = true)) := by
  unfold enabledOnChannel
  cases s.chans[m]? with
  | none => simp
  | some c => simp [and_comm]

/-- An internal event is listed for a channel or as the alarm; the channels that do not exist list none. -/
theorem mem_enabledEvents {s : State} {i : Instr} :
    i ∈ enabledEvents s ↔ (∃ m, i ∈ enabledOnChannel s m) ∨ (i = .evAlarm ∧ alarmEnabled s = true) := by
  have hlt : ∀ m, i ∈ enabledOnChannel s m → m < s.chans.length := fun m h => by
    obtain ⟨c, hc, _⟩ := mem_enabledOnChannel.mp h
    exact (List.getElem?_eq_some_iff.mp hc).1
  have hchans : (∃ m, m < s.chans.length ∧ i ∈ enabledOnChannel s m) ↔ ∃ m, i ∈ enabledOnChannel s m :=
    exists_congr fun m => and_iff_right_of_imp (hlt m)
  simp only [enabledEvents, List.mem_append, List.mem_flatMap, List.mem_range, hchans, List.mem_ite_nil_right,
    List.mem_singleton, and_comm]

/-- Settles O10: the halt stands in every enable condition, and comes out of them all. -/
theorem enabledEventsMeetTheirConditions : Obligations.EnabledEventsMeetTheirConditions := by
  intro s i
  simp only [mem_enabledEvents, mem_enabledOnChannel, edgeEnabled_iff, vtickEnabled_iff, ptickEnabled_iff,
    alarmEnabled_iff]
  cases s.cfgHalt <;> simp

end Sys2Proof.Machine
end

section
/-! PROOF. The edge decoder: its two events (R142, R144 to R146) by the table of R141, and that it stays in step with the
levels (R142, R144, R148, R370). -/

namespace Sys2Proof.Machine

/-! ## The check before a channel event -/

/-- An event that is enabled on a channel takes place there (R110). -/
theorem onEvent_enabled {s : State} {m : Nat} {c : Channel} {enabled : Channel → Bool} (hc : s.chans[m]? = some c)
    (he : enabled c = true) (body : Channel → Result) : onEvent m s enabled body = body c := by
  simp only [onEvent, hc, he, ↓reduceIte]

/-- An event that is not enabled has no step (R110; log entry 5). -/
theorem onEvent_notEnabled {s : State} {m : Nat} {c : Channel} {enabled : Channel → Bool} (hc : s.chans[m]? = some c)
    (he : enabled c = false) (body : Channel → Result) : onEvent m s enabled body = .fault .eventNotEnabled := by
  simp only [onEvent, hc, he, Bool.false_eq_true, ↓reduceIte]

/-! ## The QuadState of two levels (R140) -/

theorem quad_inj {a b a' b' : Bool} : quad a b = quad a' b' ↔ a = a' ∧ b = b' := by
  revert a b a' b'
  decide

/-- A QuadState is the QuadState of its two bits. -/
theorem quad_getLsbD (n : Quad) : quad (n.getLsbD 1) (n.getLsbD 0) = n := by
  revert n
  decide

theorem quad_toNat (a b : Bool) : (quad a b).toNat = 2 * a.toNat + b.toNat := by
  revert a b
  decide

/-! ## The table of R141 -/

theorem delta_eq_clockwise {l n : Quad} :
    delta l n = .clockwise ↔ (l, n) ∈ [(0#2, 2#2), (2#2, 3#2), (3#2, 1#2), (1#2, 0#2)] := by
  revert l n
  decide

theorem delta_eq_counterClockwise {l n : Quad} :
    delta l n = .counterClockwise ↔ (l, n) ∈ [(2#2, 0#2), (3#2, 2#2), (1#2, 3#2), (0#2, 1#2)] := by
  revert l n
  decide

theorem delta_eq_same {l n : Quad} : delta l n = .same ↔ l = n := by
  revert l n
  decide

/-- The diagonals are the pairs of states that differ in both levels. -/
theorem delta_eq_diagonal {l n : Quad} : delta l n = .diagonal ↔ l ^^^ n = 3#2 := by
  revert l n
  decide

/-! ## The edge handler (R144, R145, R146) -/

theorem edgeStep_clockwise {c : Channel} (h : delta c.edLast (quad c.qa c.qb) = .clockwise) :
    edgeStep c = { c with edPend := false, edPos := c.edPos + 1, edLast := quad c.qa c.qb } := by
  simp only [edgeStep, h]

theorem edgeStep_counterClockwise {c : Channel} (h : delta c.edLast (quad c.qa c.qb) = .counterClockwise) :
    edgeStep c = { c with edPend := false, edPos := c.edPos - 1, edLast := quad c.qa c.qb } := by
  simp only [edgeStep, h]

theorem edgeStep_same {c : Channel} (h : delta c.edLast (quad c.qa c.qb) = .same) :
    edgeStep c = { c with edPend := false } := by
  simp only [edgeStep, h]

theorem edgeStep_diagonal {c : Channel} (h : delta c.edLast (quad c.qa c.qb) = .diagonal) :
    edgeStep c = { c with edPend := false, diagCnt := bumpDiag c.diagCnt, edLast := quad c.qa c.qb } := by
  simp only [edgeStep, h]

/-- The diagonal count saturates at its largest value (R45). -/
theorem bumpDiag_eq (n : U32) : bumpDiag n = if n.toNat = 2 ^ 32 - 1 then n else n + 1 := by
  have hlt : n.toNat < 2 ^ 32 := n.isLt
  apply BitVec.eq_of_toNat_eq
  rw [bumpDiag, BitVec.toNat_ofNat]
  split
  · omega
  · rw [BitVec.toNat_add]
    show _ = (n.toNat + 1) % 2 ^ 32
    omega

/-- EV_EDGE on a ready channel with a pending edge runs the edge handler. -/
theorem exec_evEdge {s : State} {m : Nat} {c : Channel} (h : Ready s m c) (hp : c.edPend = true) :
    exec (.evEdge m) s = .next (s.setChan m (edgeStep c)) :=
  onEvent_enabled h.2 (edgeEnabled_iff.mpr ⟨h.1, hp⟩) _

/-- EV_EDGE has no step without a pending edge or on a halted block. -/
theorem exec_evEdge_notEnabled {s : State} {m : Nat} {c : Channel} (hc : s.chans[m]? = some c)
    (h : c.edPend = false ∨ s.cfgHalt = true) : exec (.evEdge m) s = .fault .eventNotEnabled := by
  refine onEvent_notEnabled hc (Bool.eq_false_iff.mpr fun he => ?_) _
  obtain ⟨hh, hp⟩ := edgeEnabled_iff.mp he
  rcases h with h | h
  · exact absurd (hp.symm.trans h) nofun
  · exact absurd (hh.symm.trans h) nofun

/-- Settles O17: the last and the new state stand in one of the four classes of the table, and the handler does what it
does for that class. -/
theorem edgeEventCountsByTheTable : Obligations.EdgeEventCountsByTheTable := by
  refine ⟨fun m hm => decodeWord_wordOf (i := .evEdge m) rfl rfl hm, fun s m c => exec_evEdge_notEnabled,
    fun s m c h hp => ?_⟩
  dsimp only
  rw [exec_evEdge h hp]
  refine ⟨fun hcw => ?_, fun hccw => ?_, fun hsame => ?_, fun hdiag => ?_⟩
  · rw [edgeStep_clockwise (delta_eq_clockwise.mpr hcw)]
    rfl
  · rw [edgeStep_counterClockwise (delta_eq_counterClockwise.mpr hccw)]
    rfl
  · rw [edgeStep_same (delta_eq_same.mpr hsame)]
    rfl
  · rw [edgeStep_diagonal (delta_eq_diagonal.mpr hdiag), bumpDiag_eq]
    rfl

/-! ## The phase event (R142) -/

/-- The word of EV_PHASE carries the levels in bits 1 and 0 (R102). -/
theorem encodeWord_evPhase {m : Nat} (a b : Bool) (hm : m < 16) :
    encodeWord (.evPhase m a b) = wordOf 0xE0 m + BitVec.ofNat 32 (2 * a.toNat + b.toNat) := by
  have ha : a.toNat ≤ 1 := Bool.toNat_le a
  have hb : b.toNat ≤ 1 := Bool.toNat_le b
  have hlow : (Instr.evPhase m a b).lowBits.toNat = 2 * a.toNat + b.toNat := by cases a <;> cases b <;> rfl
  have hnat : (wordOf 0xE0 m + BitVec.ofNat 32 (2 * a.toNat + b.toNat)).toNat =
      0xE0 * 2 ^ 24 + m * 2 ^ 20 + (2 * a.toNat + b.toNat) := by
    rw [wordOf, ← BitVec.ofNat_add, BitVec.toNat_ofNat]
    omega
  refine encodeWord_of_fields (BitVec.eq_of_toNat_eq ?_) (BitVec.eq_of_toNat_eq ?_) (BitVec.eq_of_toNat_eq ?_)
  · rw [opcodeField_toNat, hnat]
    show 0xE0 = _
    omega
  · rw [motorField_toNat, hnat, motorBits_toNat rfl hm]
    omega
  · rw [rsvField_toNat, hnat, hlow]
    omega

/-- EV_PHASE takes place on every channel, on a halted block too. -/
theorem exec_evPhase {s : State} {m : Nat} {c : Channel} (a b : Bool) (hc : s.chans[m]? = some c) :
    exec (.evPhase m a b) s = .next (s.setChan m (setPhase a b c)) :=
  onEvent_enabled hc rfl _

theorem setPhase_eq (a b : Bool) (c : Channel) :
    setPhase a b c =
      { c with qa := a, qb := b, edPend := if a = c.qa ∧ b = c.qb then c.edPend else true } := by
  unfold setPhase
  congr 1
  split
  · rename_i h
    simp [quad_inj.mpr h]
  · rename_i h
    simp [mt quad_inj.mp h]

/-- Settles O16: the word is the one the encoder writes, and the event has no condition but its channel. -/
theorem phaseEventSetsLevelsAndPendingEdge : Obligations.PhaseEventSetsLevelsAndPendingEdge := by
  refine ⟨fun m hm a b => ?_, fun s m c a b hc => ?_⟩
  · rw [← encodeWord_evPhase a b hm]
    exact decodeWord_encodeWord (i := .evPhase m a b) (decide_eq_true hm)
  · rw [exec_evPhase a b hc, setPhase_eq]
    rfl

/-! ## The decoder's commands (R148 to R151) -/

/-- Settles O18: the word decodes by the format, and on a ready channel the body of the command runs. -/
theorem edResetTakesTheLevelsAsBaseline : Obligations.EdResetTakesTheLevelsAsBaseline :=
  ⟨fun m hm => decodeCommand_wordOf (i := .edReset m) rfl rfl rfl hm, fun _ _ _ h => onChannel_ready h _⟩

/-- The packed decoder bits as a sum (R151). -/
theorem decoderBits_toNat (c : Channel) :
    (decoderBits c).toNat = 16 * c.qa.toNat + 8 * c.qb.toNat + 4 * c.edPend.toNat + c.edLast.toNat := by
  rw [decoderBits, BitVec.toNat_append, BitVec.toNat_append, ← Nat.shiftLeft_add_eq_or_of_lt c.edLast.isLt,
    ← Nat.shiftLeft_add_eq_or_of_lt (BitVec.ofBool c.edPend).isLt, quad_toNat, BitVec.toNat_ofBool,
    Nat.shiftLeft_eq, Nat.shiftLeft_eq]
  omega

/-- Settles O19: on a ready channel each read runs its body, and the registers it packs are the numbers stated. -/
theorem encoderReadsReturnCountDistanceAndDiagnostics :
    Obligations.EncoderReadsReturnCountDistanceAndDiagnostics := by
  refine ⟨fun m hm => ⟨decodeCommand_wordOf (i := .edGetcount m) rfl rfl rfl hm,
    decodeCommand_wordOf (i := .getPosition m) rfl rfl rfl hm,
    decodeCommand_wordOf (i := .edGetdiag m) rfl rfl rfl hm⟩, fun s m c h => ?_⟩
  rw [← decoderBits_toNat, BitVec.ofNat_toNat, BitVec.ofNat_toNat]
  exact ⟨onChannel_ready h _, onChannel_ready h _, onChannel_ready h _⟩

/-! ## The decoder in step with the levels (log entry 15) -/

/-- After the edge handler no edge is pending and the last state is that of the levels, whatever the class of the
transition was. -/
theorem edgeStep_inStep (c : Channel) :
    (edgeStep c).edPend = false ∧ (edgeStep c).edLast = quad (edgeStep c).qa (edgeStep c).qb := by
  cases h : delta c.edLast (quad c.qa c.qb) with
  | clockwise => simp only [edgeStep_clockwise h, and_self]
  | counterClockwise => simp only [edgeStep_counterClockwise h, and_self]
  | same => simp only [edgeStep_same h, delta_eq_same.mp h, and_self]
  | diagonal => simp only [edgeStep_diagonal h, and_self]

/-- With no edge pending after EV_PHASE, none was before and the levels are the same. -/
theorem decoderSound_setPhase (a b : Bool) {c : Channel} (h : DecoderSound c) : DecoderSound (setPhase a b c) := by
  intro hp
  rw [setPhase_eq] at hp ⊢
  dsimp only at hp ⊢
  split at hp
  · rename_i hsame
    obtain ⟨rfl, rfl⟩ := hsame
    exact h hp
  · cases hp

/-- A channel after an instruction other than EV_RESET was a channel of the same number before it. -/
theorem exec_channel_before {i : Instr} {s t : State} {c' : Channel} (h : exec i s = .next t) (hr : i ≠ .evReset)
    (hc' : c' ∈ t.chans) : ∃ (k : Nat) (c : Channel), s.chans[k]? = some c ∧ t.chans[k]? = some c' := by
  obtain ⟨k, hk⟩ := List.mem_iff_getElem?.mp hc'
  obtain ⟨_, _, _, _, _, _, _, _, _, hlen⟩ := exec_fixed h hr
  have hlt : k < s.chans.length := hlen ▸ (List.getElem?_eq_some_iff.mp hk).1
  exact ⟨k, _, List.getElem?_eq_getElem hlt, hk⟩

/-- An instruction that writes neither levels nor decoder registers keeps every decoder in step: EV_PHASE, EV_EDGE,
ED_RESET and EV_RESET are the only ones that do (R75). -/
theorem exec_keeps_decoderSound_of_other {i : Instr} {s t : State} (hs : EachChannel DecoderSound s)
    (h : exec i s = .next t) (hr : i ≠ .evReset) (hphase : ∀ m a b, i ≠ .evPhase m a b) (hedge : ∀ m, i ≠ .evEdge m)
    (hreset : ∀ m, i ≠ .edReset m) : EachChannel DecoderSound t := by
  intro c' hc'
  obtain ⟨k, c, hk, hk'⟩ := exec_channel_before h hr hc'
  obtain ⟨c1, hk1, _, hlevels, hpend, hlast, _⟩ := onlyListedTransitionsWriteAChannel i s t k c h hr hk
  obtain rfl : c1 = c' := Option.some.inj (hk1.symm.trans hk')
  have hold : DecoderSound c := hs c (List.mem_of_getElem? hk)
  obtain ⟨hqa, hqb⟩ : c1.qa = c.qa ∧ c1.qb = c.qb := by simpa [hphase] using hlevels
  have hpend : c1.edPend = c.edPend := by simpa [hphase, hedge] using hpend
  obtain ⟨hlast, _⟩ : c1.edLast = c.edLast ∧ _ := by simpa [hedge, hreset] using hlast
  rwa [DecoderSound, hqa, hqb, hpend, hlast]

/-- Every instruction keeps every decoder in step with its levels. -/
theorem exec_keeps_decoderSound {i : Instr} {s t : State} (hs : EachChannel DecoderSound s) (h : exec i s = .next t) :
    EachChannel DecoderSound t := by
  cases exec_effect h with
  | rejected | answered => exact hs
  | evPhase a b hc => exact eachChannel_write hs hc (decoderSound_setPhase a b)
  | @evEdge m c hc => exact eachChannel_set hs fun _ => (edgeStep_inStep c).2
  | edReset hc => exact eachChannel_set hs fun _ => rfl
  | evReset => exact eachChannel_reset fun _ _ _ => rfl
  | _ => exact exec_keeps_decoderSound_of_other hs h nofun nofun nofun nofun

/-- Settles O21: every instruction keeps the invariant, and it does not look at the host's side of the block. -/
theorem stepKeepsTheDecoderInStep : Obligations.StepKeepsTheDecoderInStep := fun _ _ hs h =>
  step_keeps (EachChannel DecoderSound) (fun _ _ _ => exec_keeps_decoderSound) (fun _ _ _ _ _ _ _ _ _ hs => hs) hs h

end Sys2Proof.Machine
end

section
/-! PROOF. The count along a sequence of handled turns (R152): one turn from a settled decoder, then induction over the
turns. -/

namespace Sys2Proof.Machine

/-! ## One turn -/

/-- The state that a turn leads to (R141). -/
def WheelTurn.next : WheelTurn → Quad → Quad
  | .cw => cwNext
  | .ccw => ccwNext

/-- What a turn adds to the count (R141). -/
def WheelTurn.sign : WheelTurn → Int
  | .cw => 1
  | .ccw => -1

theorem netTurns_cons (w : WheelTurn) (ws : List WheelTurn) : netTurns (w :: ws) = w.sign + netTurns ws := by
  cases w with
  | cw => exact Int.add_comm _ _
  | ccw => exact Int.add_comm _ (-1)

theorem delta_cwNext (l : Quad) : delta l (cwNext l) = .clockwise := by
  revert l
  decide

theorem delta_ccwNext (l : Quad) : delta l (ccwNext l) = .counterClockwise := by
  revert l
  decide

/-- A turn leads to another state. -/
theorem WheelTurn.next_ne (w : WheelTurn) (l : Quad) : w.next l ≠ l := by
  revert l
  cases w <;> decide

/-- No edge is pending and the last state is that of the levels: the premise of R152. -/
def Settled (c : Channel) : Prop := c.edPend = false ∧ c.edLast = quad c.qa c.qb

theorem settled_iff {c : Channel} : Settled c ↔ DecoderSound c ∧ c.edPend = false :=
  ⟨fun ⟨hp, hl⟩ => ⟨fun _ => hl, hp⟩, fun ⟨hd, hp⟩ => ⟨hp, hd hp⟩⟩

/-- The levels of a turn are set, its edge not yet handled. -/
def beginTurn (w : WheelTurn) (c : Channel) : Channel :=
  setPhase ((w.next (quad c.qa c.qb)).getLsbD 1) ((w.next (quad c.qa c.qb)).getLsbD 0) c

theorem beginTurn_quad (w : WheelTurn) (c : Channel) :
    quad (beginTurn w c).qa (beginTurn w c).qb = w.next (quad c.qa c.qb) := quad_getLsbD _

/-- A turn makes an edge pending (R142). -/
theorem beginTurn_edPend (w : WheelTurn) (c : Channel) : (beginTurn w c).edPend = true := by
  simp only [beginTurn, setPhase, quad_getLsbD, ne_eq, w.next_ne, not_false_eq_true, decide_true, Bool.or_true]

/-- The edge handler counts a turn from a settled decoder by its sign, and no diagonal (R144). -/
theorem edgeStep_beginTurn (w : WheelTurn) {c : Channel} (h : Settled c) :
    (edgeStep (beginTurn w c)).edPos = c.edPos + BitVec.ofInt 32 w.sign ∧
      (edgeStep (beginTurn w c)).diagCnt = c.diagCnt := by
  have hlast : (beginTurn w c).edLast = quad c.qa c.qb := h.2
  cases w with
  | cw =>
    rw [edgeStep_clockwise (by rw [beginTurn_quad, hlast]; exact delta_cwNext _)]
    exact ⟨rfl, rfl⟩
  | ccw =>
    rw [edgeStep_counterClockwise (by rw [beginTurn_quad, hlast]; exact delta_ccwNext _)]
    exact ⟨BitVec.sub_eq_add_neg _ _, rfl⟩

/-- The two events of a turn on a ready channel both take place. -/
theorem turnOnce_eq (w : WheelTurn) {s : State} {m : Nat} {c : Channel} (h : Ready s m c) :
    turnOnce m w s = some ((s.setChan m (beginTurn w c)).setChan m (edgeStep (beginTurn w c))) := by
  have hphase : exec (.evPhase m ((w.next (quad c.qa c.qb)).getLsbD 1) ((w.next (quad c.qa c.qb)).getLsbD 0)) s =
      .next (s.setChan m (beginTurn w c)) := exec_evPhase _ _ h.2
  have hedge := exec_evEdge (s := s.setChan m (beginTurn w c)) ⟨h.1, setChan_self h.2 _⟩ (beginTurn_edPend w c)
  cases w
  all_goals
    simp only [WheelTurn.next] at hphase
    simp only [turnOnce, h.2, hphase, hedge]

/-- One turn from a ready, settled channel leads to one and moves the count by its sign. -/
theorem turnOnce_settled (w : WheelTurn) {s : State} {m : Nat} {c : Channel} (h : Ready s m c) (hset : Settled c) :
    ∃ t c', turnOnce m w s = some t ∧ Ready t m c' ∧ Settled c' ∧ c'.diagCnt = c.diagCnt ∧
      c'.edPos = c.edPos + BitVec.ofInt 32 w.sign := by
  obtain ⟨hpos, hdiag⟩ := edgeStep_beginTurn w hset
  exact ⟨_, _, turnOnce_eq w h, ⟨h.1, setChan_self (setChan_self h.2 _) _⟩, edgeStep_inStep _, hdiag, hpos⟩

/-! ## A sequence of turns -/

/-- Along any turns the channel stays ready and settled, and the count moves by their net number. -/
theorem turnAll_settled (ws : List WheelTurn) {s : State} {m : Nat} {c : Channel} (h : Ready s m c)
    (hset : Settled c) :
    ∃ t c', turnAll m ws s = some t ∧ Ready t m c' ∧ Settled c' ∧ c'.diagCnt = c.diagCnt ∧
      c'.edPos = c.edPos + BitVec.ofInt 32 (netTurns ws) := by
  induction ws generalizing s c with
  | nil => exact ⟨s, c, rfl, h, hset, rfl, (BitVec.add_zero _).symm⟩
  | cons w ws ih =>
    obtain ⟨s1, c1, hturn, h1, hset1, hdiag1, hpos1⟩ := turnOnce_settled w h hset
    obtain ⟨t, c', hturns, ht, hset', hdiag, hpos⟩ := ih h1 hset1
    refine ⟨t, c', by simp only [turnAll, hturn, Option.bind_some, hturns], ht, hset', hdiag.trans hdiag1, ?_⟩
    calc c'.edPos = c.edPos + BitVec.ofInt 32 w.sign + BitVec.ofInt 32 (netTurns ws) := by rw [hpos, hpos1]
      _ = c.edPos + BitVec.ofInt 32 (netTurns (w :: ws)) := by
        rw [BitVec.add_assoc, ← BitVec.ofInt_add, netTurns_cons]

/-- Settles O20: by induction over the turns, each from a settled decoder to a settled one. -/
theorem countFollowsTheNetTurns : Obligations.CountFollowsTheNetTurns := by
  intro ws s m c h hsound hpend
  obtain ⟨t, c', hturns, ht, hset, hdiag, hpos⟩ := turnAll_settled ws h (settled_iff.mpr ⟨hsound, hpend⟩)
  obtain ⟨hsound', hpend'⟩ := settled_iff.mp hset
  exact ⟨t, c', hturns, ht.2, hsound', hpend', hdiag, hpos⟩

end Sys2Proof.Machine
end

section
/-! PROOF. The velocity sampler: its tick (R170, R171, R181), CALIBRATE and its read-back (R173, R174, R180), and the
two period commands (R178, R204). -/

namespace Sys2Proof.Machine

/-! ## The tick (R170, R171) -/

/-- A tick with no time elapsed raises the anomaly and sets the next due time. -/
theorem sampleStep_anomaly {t : U64} {c : Channel} (h : t.toNat ≤ c.vPrevT.toNat) :
    sampleStep t c = { c.setFlag flagTanom with vNext := dueAfter t c.vPeriodMs } := by
  have hdt : (t.toNat : Int) - c.vPrevT.toNat ≤ 0 := by omega
  simp only [sampleStep, hdt, ↓reduceIte, Channel.setFlag_vPeriodMs]

/-- A tick with time elapsed takes the velocity and the new pair, and sets the next due time. -/
theorem sampleStep_elapsed {t : U64} {c : Channel} (h : c.vPrevT.toNat < t.toNat) :
    sampleStep t c =
      { c with
        vel := q64 (velocityOf (c.edPos - c.vPrevPos).toInt c.calDpp.toInt ((t.toNat : Int) - c.vPrevT.toNat))
        vPrevPos := c.edPos, vPrevT := t, vNext := dueAfter t c.vPeriodMs } := by
  have hdt : ¬(t.toNat : Int) - c.vPrevT.toNat ≤ 0 := by omega
  simp only [sampleStep, hdt, ↓reduceIte]

/-- EV_VTICK on a ready channel whose due time has come takes one sample. -/
theorem exec_evVtick {s : State} {m : Nat} {c : Channel} (h : Ready s m c) (hdue : c.vNext.toNat ≤ s.now.toNat) :
    exec (.evVtick m) s = .next (s.setChan m (sampleStep s.now c)) :=
  onEvent_enabled h.2 (vtickEnabled_iff.mpr ⟨h.1, hdue⟩) _

/-- EV_VTICK has no step before its due time or on a halted block. -/
theorem exec_evVtick_notEnabled {s : State} {m : Nat} {c : Channel} (hc : s.chans[m]? = some c)
    (h : s.now.toNat < c.vNext.toNat ∨ s.cfgHalt = true) : exec (.evVtick m) s = .fault .eventNotEnabled := by
  refine onEvent_notEnabled hc (Bool.eq_false_iff.mpr fun he => ?_) _
  obtain ⟨hready, hdue⟩ := vtickEnabled_iff.mp he
  rcases h with hearly | hhalt
  · omega
  · exact absurd (hready.symm.trans hhalt) nofun

/-- A tick that takes place does so on a ready channel whose due time has come. -/
theorem exec_evVtick_next {s t : State} {m : Nat} {c : Channel} (hc : s.chans[m]? = some c)
    (h : exec (.evVtick m) s = .next t) :
    s.cfgHalt = false ∧ c.vNext.toNat ≤ s.now.toNat ∧ t = s.setChan m (sampleStep s.now c) := by
  obtain ⟨c1, hc1, he, hbody⟩ := onEvent_next.mp h
  obtain rfl : c = c1 := Option.some.inj (hc.symm.trans hc1)
  obtain ⟨hready, hdue⟩ := vtickEnabled_iff.mp he
  exact ⟨hready, hdue, (Host.Outcome.next.inj hbody).symm⟩

/-- Settles O22: the tick takes one sample, which has time behind it or has none. -/
theorem velocityTickSamplesOrFlags : Obligations.VelocityTickSamplesOrFlags := by
  refine ⟨fun m hm => decodeWord_wordOf (i := .evVtick m) rfl rfl hm, fun s m c => exec_evVtick_notEnabled,
    fun s m c h hdue => ?_⟩
  rw [exec_evVtick h hdue]
  refine ⟨fun hnone => ?_, fun helapsed => ?_⟩
  · rw [sampleStep_anomaly hnone]
    rfl
  · rw [sampleStep_elapsed helapsed]
    rfl

/-- Settles O23: sound times put the due time at least 1000 µs after the previous tick, so the sample has time elapsed. -/
theorem enabledTickHasElapsedTime : Obligations.EnabledTickHasElapsedTime := by
  intro s t m c hs hc h
  obtain ⟨hready, hdue, rfl⟩ := exec_evVtick_next hc h
  obtain ⟨_, hch⟩ := (timeSound_iff s).mp hs
  obtain ⟨_, _, htimes⟩ := hch c (List.mem_of_getElem? hc)
  obtain ⟨_, _, hnext⟩ := htimes hready
  have helapsed : c.vPrevT.toNat + 1000 ≤ s.now.toNat := hnext.trans hdue
  refine ⟨helapsed, _, setChan_self hc _, ?_⟩
  rw [sampleStep_elapsed (by omega)]
  exact ⟨rfl, rfl⟩

/-! ## Commands that take a POS32 in ARG0 (R103, R104) -/

theorem readPos32_none {a : U64} : readPos32 a = none ↔ a.toNat = 0 ∨ 2 ^ 32 ≤ a.toNat := by
  rw [readPos32, ite_eq_right_iff]
  simp only [reduceCtorEq, imp_false]
  omega

/-- On a ready channel a legal ARG0 goes on to the command's body. -/
theorem onChannel_pos32 {s : State} {m : Nat} {c : Channel} (h : Ready s m c) (hlo : 1 ≤ s.arg0.toNat)
    (hhi : s.arg0.toNat < 2 ^ 32) (body : Channel → U32 → Result) :
    onChannel m s (fun c => withArg (readPos32 s.arg0) s (body c)) = body c (s.arg0.setWidth 32) := by
  have hread : readPos32 s.arg0 = some (s.arg0.setWidth 32) := if_pos ⟨hlo, hhi⟩
  rw [onChannel_ready h, hread]
  rfl

/-- On a ready channel an ARG0 of 0 or of 2^32 and more is rejected. -/
theorem onChannel_pos32_rejected {s : State} {m : Nat} {c : Channel} (h : Ready s m c)
    (hbad : s.arg0.toNat = 0 ∨ 2 ^ 32 ≤ s.arg0.toNat) (body : Channel → U32 → Result) :
    onChannel m s (fun c => withArg (readPos32 s.arg0) s (body c)) = .next (s.setStatus .invalidArgument) := by
  rw [onChannel_ready h, readPos32_none.mpr hbad]
  rfl

/-! ## Calibration (R173, R174, R176, R180) -/

/-- The channel after CALIBRATE with the count `ppr` and the diameter `diam`. -/
def calibrated (ppr : U32) (diam : U64) (c : Channel) : Channel :=
  { c with calPpr := ppr, calDiam := diam, calDpp := q64 (distancePerCount ppr diam.toInt) }

theorem exec_calibrate {s : State} {m : Nat} {c : Channel} (h : Ready s m c) (hlo : 1 ≤ s.arg0.toNat)
    (hhi : s.arg0.toNat < 2 ^ 32) (hdiam : 0 < s.arg1.toInt) :
    exec (.calibrate m) s =
      .next ((s.setChan m (calibrated (s.arg0.setWidth 32) s.arg1 c)).setStatus .ok) :=
  (onChannel_pos32 h hlo hhi _).trans (if_neg hdiam.not_ge)

theorem exec_calibrate_rejected {s : State} {m : Nat} {c : Channel} (h : Ready s m c)
    (hbad : s.arg0.toNat = 0 ∨ 2 ^ 32 ≤ s.arg0.toNat ∨ s.arg1.toInt ≤ 0) :
    exec (.calibrate m) s = .next (s.setStatus .invalidArgument) := by
  by_cases hpos : s.arg0.toNat = 0 ∨ 2 ^ 32 ≤ s.arg0.toNat
  · exact onChannel_pos32_rejected h hpos _
  · have hdiam : s.arg1.toInt ≤ 0 := by omega
    exact (onChannel_pos32 h (by omega) (by omega) _).trans (if_pos hdiam)

/-- Settles O24: the count that is stored is the number in ARG0, and the distance per count is computed from it. -/
theorem calibrateStoresAndComputes : Obligations.CalibrateStoresAndComputes := by
  refine ⟨fun m hm => decodeCommand_wordOf (i := .calibrate m) rfl rfl rfl hm,
    fun s m c h => ⟨fun hlo hhi hdiam => ?_, exec_calibrate_rejected h⟩⟩
  rw [exec_calibrate h hlo hhi hdiam, ← toNat_setWidth_of_upperClear hhi]
  rfl

/-- Settles O25: the channel stays ready after CALIBRATE, and its stored count widens back to ARG0. -/
theorem calibrationReadsBackExactly : Obligations.CalibrationReadsBackExactly := by
  intro s m c h hlo hhi hdiam
  have hready : Ready ((s.setChan m (calibrated (s.arg0.setWidth 32) s.arg1 c)).setStatus .ok) m
      (calibrated (s.arg0.setWidth 32) s.arg1 c) := ⟨h.1, setChan_self h.2 _⟩
  obtain ⟨_, hreads⟩ := samplerReadsReturnTheirRegisters
  obtain ⟨hread, _, _⟩ := hreads _ _ _ hready
  refine ⟨_, _, exec_calibrate h hlo hhi hdiam, hread, rfl, ?_, rfl⟩
  show BitVec.ofNat 64 (s.arg0.setWidth 32).toNat = s.arg0
  rw [toNat_setWidth_of_upperClear hhi, BitVec.ofNat_toNat, BitVec.setWidth_eq]

/-! ## The period commands (R178, R204) -/

/-- Settles O27: both commands check ARG0 as a POS32 and run their body with it. -/
theorem periodCommandsSetTheirIntervals : Obligations.PeriodCommandsSetTheirIntervals := by
  refine ⟨fun m hm => ⟨decodeCommand_wordOf (i := .setVelPeriod m) rfl rfl rfl hm,
    decodeCommand_wordOf (i := .setInterval m) rfl rfl rfl hm⟩,
    fun s m c h => ⟨fun hlo hhi => ⟨?_, onChannel_pos32 h hlo hhi _⟩, fun hbad =>
      ⟨onChannel_pos32_rejected h hbad _, onChannel_pos32_rejected h hbad _⟩⟩⟩
  rw [← toNat_setWidth_of_upperClear hhi]
  exact onChannel_pos32 h hlo hhi _

end Sys2Proof.Machine
end

section
/-! PROOF. PIDController: its settings (R201, R202, R203, R205, R206, R208), PID_STEP as EV_PTICK and COMPUTE run it
(R207, R209, R210), and the first step after a switch to AUTOMATIC (R211, R214). -/

namespace Sys2Proof.Machine

/-! ## The settings (R201, R202, R203, R205, R206, R208) -/

/-- Settles O30: the words decode by the format, and on a ready channel the body of each command runs. -/
theorem pidSettingsAreStoredAndRead : Obligations.PidSettingsAreStoredAndRead :=
  ⟨fun m hm => ⟨decodeCommand_wordOf (i := .setTarget m) rfl rfl rfl hm,
    decodeCommand_wordOf (i := .setTunings m) rfl rfl rfl hm,
    decodeCommand_wordOf (i := .getOutput m) rfl rfl rfl hm⟩,
    fun _ _ _ h => ⟨onChannel_ready h _, onChannel_ready h _, onChannel_ready h _⟩⟩

/-- On a ready channel a mode that ARG0 gives goes on to the switch (R203). -/
theorem exec_setMode {s : State} {m : Nat} {c : Channel} {mode : PidMode} (h : Ready s m c)
    (hread : readMode s.arg0 = some mode) :
    exec (.setMode m) s = .next ((s.setChan m (switchMode mode c)).setStatus .ok) := by
  refine (onChannel_ready h _).trans ?_
  rw [hread]
  rfl

/-- On a ready channel an ARG0 that is no mode is rejected (R104, R203). -/
theorem exec_setMode_rejected {s : State} {m : Nat} {c : Channel} (h : Ready s m c) (hbad : 1 < s.arg0.toNat) :
    exec (.setMode m) s = .next (s.setStatus .invalidArgument) := by
  refine (onChannel_ready h _).trans ?_
  rw [readMode_none.mpr hbad]
  rfl

/-- A request for the mode AUTOMATIC that finds it changes nothing (R203). -/
theorem switchMode_automatic_again {c : Channel} (hauto : c.pidMode = .automatic) : switchMode .automatic c = c :=
  if_neg (by rw [hauto]; decide)

/-- Writing back the channel that stands there changes nothing. -/
theorem setChan_same {s : State} {m : Nat} {c : Channel} (hc : s.chans[m]? = some c) : s.setChan m c = s := by
  obtain ⟨hlt, rfl⟩ := List.getElem?_eq_some_iff.mp hc
  rw [State.setChan, List.set_getElem_self]

/-- Settles O31: what the switch does by the mode asked for and the mode found. -/
theorem setModeSwitchesAndSeeds : Obligations.SetModeSwitchesAndSeeds := by
  refine ⟨fun m hm => decodeCommand_wordOf (i := .setMode m) rfl rfl rfl hm, fun s m c h =>
    ⟨fun hone hman => ?_, fun hone hauto => ?_, fun hzero => ?_, exec_setMode_rejected h⟩⟩
  · have hswitch : switchMode .automatic c = { c with pidMode := .automatic, pidSeed := true } := if_pos hman
    rw [exec_setMode (mode := .automatic) h (by rw [hone]; rfl), hswitch]
    rfl
  · rw [exec_setMode (mode := .automatic) h (by rw [hone]; rfl), switchMode_automatic_again hauto, setChan_same h.2]
    rfl
  · exact exec_setMode (mode := .manual) h (by rw [hzero]; rfl)

/-- Settles O32: the bounds of R205 are the condition of the command's one branch. -/
theorem setLimitsClampsAtOnce : Obligations.SetLimitsClampsAtOnce :=
  ⟨fun m hm => decodeCommand_wordOf (i := .setLimits m) rfl rfl rfl hm, fun _ _ _ h =>
    ⟨fun hvalid => (onChannel_ready h _).trans (if_pos (decide_eq_true hvalid)),
      fun hbad => (onChannel_ready h _).trans (if_neg (mt of_decide_eq_true hbad))⟩⟩

/-- On a ready channel in AUTOMATIC SET_OUTPUT is rejected (R206). -/
theorem exec_setOutput_rejected {s : State} {m : Nat} {c : Channel} (h : Ready s m c) (hauto : c.pidMode = .automatic) :
    exec (.setOutput m) s = .next (s.setStatus .invalidArgument) :=
  (onChannel_ready h _).trans (if_pos hauto)

/-- Settles O33: the mode is the condition of the command's one branch. -/
theorem setOutputOnlyInManual : Obligations.SetOutputOnlyInManual :=
  ⟨fun m hm => decodeCommand_wordOf (i := .setOutput m) rfl rfl rfl hm, fun _ _ _ h =>
    ⟨fun hman => (onChannel_ready h _).trans (if_neg (by rw [hman]; decide)), exec_setOutput_rejected h⟩⟩

/-! ## When a step is due (R207, R209) -/

theorem pidDue_iff {now : U64} {c : Channel} :
    pidDue now c = true ↔ (now.toNat : Int) - c.pidLast.toNat ≥ (c.pidTMs.toNat : Int) * 1000 :=
  decide_eq_true_iff

/-- COMPUTE on a ready channel without a step that is due only reads the output (R207). -/
theorem exec_compute_idle {s : State} {m : Nat} {c : Channel} (h : Ready s m c)
    (hidle : c.pidMode = .automatic → pidDue s.now c = false) :
    exec (.compute m) s = .next ((s.setResult0 c.pidOut).setStatus .ok) :=
  (onChannel_ready h _).trans (if_neg fun ⟨hauto, hdue⟩ => absurd hdue (by rw [hidle hauto]; decide))

/-- Settles O29: neither MANUAL nor an interval that has not passed meets the one condition of a step. -/
theorem computeIsIdleWhenNoStepIsDue : Obligations.ComputeIsIdleWhenNoStepIsDue := by
  intro s m c h hcause
  have hidle : c.pidMode = .automatic → pidDue s.now c = false := fun hauto => by
    rcases hcause with hman | hearly
    · rw [hman] at hauto
      cases hauto
    · exact decide_eq_false hearly.not_ge
  refine ⟨exec_compute_idle h hidle, onEvent_notEnabled h.2 (Bool.eq_false_iff.mpr fun he => ?_) _⟩
  obtain ⟨_, hauto, hdue⟩ := ptickEnabled_iff.mp he
  exact absurd (pidDue_iff.mpr hdue) (by rw [hidle hauto]; decide)

/-! ## The control law (R210, R211) -/

/-- The integral of a seed step. -/
theorem pidI_seed {c : Channel} (hseed : c.pidSeed = true) : pidI c = sat64 (c.pidOut.toInt - pidP c) := if_pos hseed

/-- A seed step has no derivative term. -/
theorem pidD_seed {c : Channel} (hseed : c.pidSeed = true) : pidD c = 0 := if_pos hseed

/-- The integral of a step that integrates. -/
theorem pidI_integrating {c : Channel} (hseed : c.pidSeed = false) :
    pidI c =
      clamp
        (sat64 (c.pidInt.toInt + sat64 (tdiv (c.pidKi.toInt * pidError c * c.pidTMs.toNat) (2 ^ 32 * 1000))))
        c.pidMin.toInt c.pidMax.toInt :=
  if_neg (by rw [hseed]; decide)

/-- The derivative term of a step that integrates. -/
theorem pidD_integrating {c : Channel} (hseed : c.pidSeed = false) :
    pidD c =
      sat64 (tdiv (c.pidKd.toInt * sat64 (pidError c - c.pidPerr.toInt) * 1000) (2 ^ 32 * c.pidTMs.toNat)) :=
  if_neg (by rw [hseed]; decide)

/-- The call of SET_DUTY_CORE that a step at time `now` makes: the truncated output on the updated channel (R212). -/
def pidDelivery (now : U64) (m : Nat) (c : Channel) : Drive :=
  setDutyCore m (tdiv (pidOutput c) (2 ^ 32)) .pid (pidUpdate now c)

/-- A step whose duty is accepted is its delivery. -/
theorem pidStep_accepted {now : U64} {m : Nat} {c : Channel}
    (h : DutyAccepted (tdiv (pidOutput c) (2 ^ 32)) (pidUpdate now c)) : pidStep now m c = pidDelivery now m c :=
  if_neg (not_not.mpr (dutyStatus_ok.mpr h))

/-- A step whose duty is rejected also sets OUTREJ_PID. -/
theorem pidStep_rejected {now : U64} {m : Nat} {c : Channel}
    (h : ¬DutyAccepted (tdiv (pidOutput c) (2 ^ 32)) (pidUpdate now c)) :
    pidStep now m c =
      { pidDelivery now m c with chan := (pidDelivery now m c).chan.setFlag flagOutrejPid } :=
  if_pos (mt dutyStatus_ok.mp h)

/-- The delivery's outcome changes no event of the log. -/
theorem pidStep_log (now : U64) (m : Nat) (c : Channel) : (pidStep now m c).log = (pidDelivery now m c).log := by
  by_cases h : DutyAccepted (tdiv (pidOutput c) (2 ^ 32)) (pidUpdate now c)
  · rw [pidStep_accepted h]
  · rw [pidStep_rejected h]

/-- A step writes the output of the control law. -/
theorem pidStep_pidOut (now : U64) (m : Nat) (c : Channel) : (pidStep now m c).chan.pidOut = q64 (pidOutput c) := by
  obtain ⟨_, _, _, _, _, heq⟩ := pidStep_frame now m c
  rw [heq]

/-- EV_PTICK on a ready channel in AUTOMATIC whose step is due runs it. -/
theorem exec_evPtick {s : State} {m : Nat} {c : Channel} (h : Ready s m c) (hauto : c.pidMode = .automatic)
    (hdue : (s.now.toNat : Int) - c.pidLast.toNat ≥ (c.pidTMs.toNat : Int) * 1000) :
    exec (.evPtick m) s = .next (s.commit m (pidStep s.now m c)) :=
  onEvent_enabled h.2 (ptickEnabled_iff.mpr ⟨h.1, hauto, hdue⟩) _

/-- COMPUTE on a ready channel in AUTOMATIC whose step is due runs it and returns its output. -/
theorem exec_compute_step {s : State} {m : Nat} {c : Channel} (h : Ready s m c) (hauto : c.pidMode = .automatic)
    (hdue : (s.now.toNat : Int) - c.pidLast.toNat ≥ (c.pidTMs.toNat : Int) * 1000) :
    exec (.compute m) s =
      .next (((s.commit m (pidStep s.now m c)).setResult0 (q64 (pidOutput c))).setStatus .ok) := by
  rw [← pidStep_pidOut s.now m c]
  exact (onChannel_ready h _).trans (if_pos ⟨hauto, pidDue_iff.mpr hdue⟩)

/-- Settles O28: I and D are those of the kind of step the seed asks for, and the delivery is accepted or rejected. -/
theorem pidStepFollowsTheControlLaw : Obligations.PidStepFollowsTheControlLaw := by
  refine ⟨fun m hm => ⟨decodeWord_wordOf (i := .evPtick m) rfl rfl hm,
    decodeCommand_wordOf (i := .compute m) rfl rfl rfl hm⟩, ?_⟩
  intro s m c c1 c2 T e P I D out duty d h hauto hT hdue he hP hseeding hintegrating hout hduty hc1 hd hacc hrej
  subst T e P
  obtain ⟨rfl, rfl⟩ : I = pidI c ∧ D = pidD c := by
    cases hseed : c.pidSeed with
    | true =>
      rw [pidI_seed hseed, pidD_seed hseed]
      exact hseeding hseed
    | false =>
      rw [pidI_integrating hseed, pidD_integrating hseed]
      exact hintegrating hseed
  subst out duty c1 d
  have hstep : pidStep s.now m c = { pidDelivery s.now m c with chan := c2 } := by
    by_cases hok : DutyAccepted (tdiv (pidOutput c) (2 ^ 32)) (pidUpdate s.now c)
    · rw [pidStep_accepted hok, hacc hok]
      rfl
    · rw [pidStep_rejected hok, hrej hok]
      rfl
  rw [exec_evPtick h hauto hdue, exec_compute_step h hauto hdue, hstep]
  exact ⟨rfl, rfl⟩

/-! ## The first step after a switch to AUTOMATIC (R211, R214) -/

/-- Channel `m` is in AUTOMATIC and its seed step is to come; its output and limits are those of `c`. -/
def AwaitsSeedStep (m : Nat) (c : Channel) (s : State) : Prop :=
  ∃ c', Ready s m c' ∧ c'.pidMode = .automatic ∧ c'.pidSeed = true ∧ c'.pidOut = c.pidOut ∧ c'.pidMin = c.pidMin ∧
    c'.pidMax = c.pidMax

/-- The switch of a channel from MANUAL to AUTOMATIC (R203). -/
theorem awaitsSeedStep_switch {s t : State} {m : Nat} {c : Channel} (h : Ready s m c) (hman : c.pidMode = .manual)
    (hone : s.arg0 = 1) (hexec : exec (.setMode m) s = .next t) : AwaitsSeedStep m c t := by
  obtain ⟨_, hmodes⟩ := setModeSwitchesAndSeeds
  obtain ⟨hswitch, _⟩ := hmodes s m c h
  obtain rfl := Host.Outcome.next.inj ((hswitch hone hman).symm.trans hexec)
  exact ⟨_, ⟨h.1, setChan_self h.2 _⟩, rfl, rfl, rfl, rfl, rfl⟩

/-- The commands that could write the mode, the seed or the output of a channel in AUTOMATIC, but do not: SET_MODE with
another operand than MANUAL, SET_OUTPUT, and COMPUTE before the interval has passed. -/
theorem exec_automatic_idle {i : Instr} {s t : State} {m : Nat} {c : Channel} (h : Ready s m c)
    (hauto : c.pidMode = .automatic) (hexec : exec i s = .next t)
    (hi : i = .setMode m ∧ s.arg0 ≠ 0 ∨ i = .setOutput m ∨ i = .compute m ∧ pidDue s.now c = false) :
    t.chans = s.chans := by
  rcases hi with ⟨rfl, hne⟩ | rfl | ⟨rfl, hearly⟩
  · by_cases hone : s.arg0 = 1
    · rw [exec_setMode (mode := .automatic) h (by rw [hone]; rfl), switchMode_automatic_again hauto,
        setChan_same h.2] at hexec
      cases hexec
      rfl
    · have hbad : 1 < s.arg0.toNat := by bv_omega
      rw [exec_setMode_rejected h hbad] at hexec
      cases hexec
      rfl
  · rw [exec_setOutput_rejected h hauto] at hexec
    cases hexec
    rfl
  · rw [exec_compute_idle h fun _ => hearly] at hexec
    cases hexec
    rfl

/-- An instruction that leaves the seed leaves the wait for the seed step: by R75 only three commands that may run could
write what the wait speaks of, and in AUTOMATIC they do not. -/
theorem exec_keeps_awaitsSeedStep {i : Instr} {s t : State} {m : Nat} {c : Channel} (hs : AwaitsSeedStep m c s)
    (hexec : exec i s = .next t) (htick : i ≠ .evPtick m) (hlimits : i ≠ .setLimits m) (hreset : i ≠ .evReset)
    (hmode : i = .setMode m → s.arg0 ≠ 0)
    (hearly : i = .compute m → ∀ c', s.chans[m]? = some c' →
      (s.now.toNat : Int) - c'.pidLast.toNat < (c'.pidTMs.toNat : Int) * 1000) : AwaitsSeedStep m c t := by
  obtain ⟨c', h, hauto, hseed, hout, hmin, hmax⟩ := hs
  obtain ⟨_, _, _, _, hhalt, _⟩ := exec_fixed hexec hreset
  have hready : t.cfgHalt = false := hhalt.trans h.1
  by_cases hidle : i = .setMode m ∨ i = .setOutput m ∨ i = .compute m
  · have hchans : t.chans = s.chans := by
      refine exec_automatic_idle h hauto hexec ?_
      rcases hidle with hi | hi | hi
      · exact .inl ⟨hi, hmode hi⟩
      · exact .inr (.inl hi)
      · exact .inr (.inr ⟨hi, decide_eq_false (hearly hi c' h.2).not_ge⟩)
    exact ⟨c', ⟨hready, hchans ▸ h.2⟩, hauto, hseed, hout, hmin, hmax⟩
  · obtain ⟨hnmode, hnout, hncompute⟩ : i ≠ .setMode m ∧ i ≠ .setOutput m ∧ i ≠ .compute m := by simpa using hidle
    obtain ⟨c'', hk, _, _, _, _, _, _, _, _, _, _, _, _, hmode', hseed', hlim', hout', _⟩ :=
      onlyListedTransitionsWriteAChannel i s t m c' hexec hreset h.2
    simp only [PidRun, htick, hlimits, hnmode, hnout, hncompute, or_self, or_false] at hmode' hseed' hlim' hout'
    obtain ⟨hmin', hmax'⟩ := hlim'
    exact ⟨c'', ⟨hready, hk⟩, hmode'.trans hauto, hseed'.trans hseed, hout'.trans hout, hmin'.trans hmin,
      hmax'.trans hmax⟩

/-- A step that leaves the seed leaves the wait for the seed step; it does not look at the host's side of the block. -/
theorem step_keeps_awaitsSeedStep {s t : State} {m : Nat} {c : Channel} (hs : AwaitsSeedStep m c s)
    (hleaves : LeavesTheSeed m s) (hstep : step s = .next t) : AwaitsSeedStep m c t := by
  rcases step_cases hstep with ⟨cmd, a0, a1, a2, st, hd, ag, rfl⟩ | ⟨i, cmd, ag, ch, hi, hexec⟩
  · exact hs
  · obtain ⟨htick, hlimits, hreset, hmode, hearly⟩ := hleaves i hi
    have hs' : AwaitsSeedStep m c { s with cmd := cmd, agenda := ag, choices := ch } := hs
    exact exec_keeps_awaitsSeedStep hs' hexec htick hlimits hreset hmode hearly

theorem BeforeFirstPidStep.keeps_awaitsSeedStep {s t : State} {m : Nat} {c : Channel} (hs : AwaitsSeedStep m c s)
    (h : BeforeFirstPidStep m s t) : AwaitsSeedStep m c t := by
  induction h with
  | switched => exact hs
  | chosen _ _ ih => exact ih
  | stepped _ hleaves hstep ih => exact step_keeps_awaitsSeedStep ih hleaves hstep

/-- A seed step whose integral does not saturate keeps an output within the limits: `P + (o - P)` is `o`. -/
theorem pidOutput_seed {c : Channel} (hseed : c.pidSeed = true) (hmin : c.pidMin.toInt ≤ c.pidOut.toInt)
    (hmax : c.pidOut.toInt ≤ c.pidMax.toInt) (hlo : -2 ^ 63 ≤ c.pidOut.toInt - pidP c)
    (hhi : c.pidOut.toInt - pidP c < 2 ^ 63) : pidOutput c = c.pidOut.toInt := by
  have hsum : pidP c + (c.pidOut.toInt - pidP c) = c.pidOut.toInt := by omega
  have hfits : sat64 c.pidOut.toInt = c.pidOut.toInt := sat64_of_fits c.pidOut.le_toInt c.pidOut.toInt_lt
  rw [pidOutput, pidI_seed hseed, pidD_seed hseed, sat64_of_fits hlo hhi, hsum, hfits, Int.add_zero, hfits,
    clamp_of_within hmin hmax]

/-- The integer part of a value between -100 and 100 is a percent. -/
theorem tdiv_percent {x : Int} (hlo : fx (-100) ≤ x) (hhi : x ≤ fx 100) :
    -100 ≤ tdiv x (2 ^ 32) ∧ tdiv x (2 ^ 32) ≤ 100 := by
  have hscale (n : Int) : tdiv (fx n) (2 ^ 32) = n := Int.mul_tdiv_cancel n (by decide)
  exact ⟨(hscale _).symm.le.trans (Int.tdiv_le_tdiv (by decide) hlo),
    (Int.tdiv_le_tdiv (by decide) hhi).trans (hscale _).le⟩

/-- A duty in range is accepted or finds the motor disabled. -/
theorem dutyStatus_inRange {v : Int} (c : Channel) (hlo : -100 ≤ v) (hhi : v ≤ 100) :
    dutyStatus v c = if c.en = true then .ok else .disabled :=
  if_neg (by omega)

/-- The first event of a step whose duty is in range is the call, accepted or with the status of a disabled motor. -/
theorem pidStep_log_inRange {now : U64} (m : Nat) {c : Channel} (hlo : -100 ≤ tdiv (pidOutput c) (2 ^ 32))
    (hhi : tdiv (pidOutput c) (2 ^ 32) ≤ 100) :
    [.duty m (tdiv (pidOutput c) (2 ^ 32)) .pid (if c.en = true then .ok else .disabled)] <+:
      (pidStep now m c).log := by
  obtain ⟨es, hlog, _⟩ := setDutyCore_log m (tdiv (pidOutput c) (2 ^ 32)) .pid (pidUpdate now c)
  rw [dutyStatus_inRange _ hlo hhi, ← pidDelivery, ← pidStep_log] at hlog
  exact ⟨es, hlog.symm⟩

/-- Settles O34: the steps in between keep the wait for the seed step with the output and limits of the switch, and the
seed step writes that output, which is a percent as its limits are. -/
theorem switchToAutomaticKeepsTheOutput : Obligations.SwitchToAutomaticKeepsTheOutput := by
  intro s s1 s2 m c c2 P h hsound hman hone hswitch hbefore hc2 hdue hP hlo hhi
  obtain ⟨c', hready, hauto, hseed, hout, hmin, hmax⟩ :=
    hbefore.keeps_awaitsSeedStep (awaitsSeedStep_switch h hman hone hswitch)
  obtain rfl : c2 = c' := Option.some.inj (hc2.symm.trans hready.2)
  subst P
  rw [PidSound, ← hout, ← hmin, ← hmax] at hsound
  rw [← hout] at hlo hhi ⊢
  obtain ⟨hfloor, _, hceil, hge, hle⟩ := hsound
  have houtput : pidOutput c2 = c2.pidOut.toInt := pidOutput_seed hseed hge hle hlo hhi
  have hkept : q64 (pidOutput c2) = c2.pidOut := by rw [houtput, q64, BitVec.ofInt_toInt]
  obtain ⟨hpctLo, hpctHi⟩ := tdiv_percent (hfloor.trans hge) (hle.trans hceil)
  rw [← houtput] at hpctLo hpctHi ⊢
  exact ⟨_, _, (pidStep s2.now m c2).chan, exec_evPtick hready hauto hdue, exec_compute_step hready hauto hdue,
    setChan_self hc2 _, setChan_self hc2 _, (pidStep_pidOut ..).trans hkept, hkept, rfl,
    (List.prefix_append_right_inj _).mpr (pidStep_log_inRange m hpctLo hpctHi)⟩

end Sys2Proof.Machine
end

section
/-! PROOF. MotorOutput: SET_DUTY_CORE event by event (R244), the commands that write the outputs (R243, R245 to R247),
and GET_MOTOR (R248). -/

namespace Sys2Proof.Machine

/-! ## SET_DUTY_CORE (R244) -/

/-- A drive is its channel and its log. -/
theorem Drive.eq_of_parts {d : Drive} {c : Channel} {es : List LogEvent} (hchan : d.chan = c) (hlog : d.log = es) :
    d = { chan := c, log := es } := by
  subst hchan hlog
  rfl

/-- A bridge that stands in the direction asked for is not written. -/
theorem Drive.turn_same {m : Nat} {a b : Bool} {d : Drive} (h : d.chan.dirA = a ∧ d.chan.dirB = b) :
    d.turn m a b = d :=
  if_pos h

/-- The writes of a direction change after the magnitude is 0: the releases, then the assertions. -/
def Drive.writePattern (m : Nat) (a b : Bool) (d : Drive) : Drive :=
  let d1 := d.pinIf (d.chan.dirA && !a) m .dirA 0
  let d2 := d1.pinIf (d1.chan.dirB && !b) m .dirB 0
  let d3 := d2.pinIf (!d2.chan.dirA && a) m .dirA 1
  d3.pinIf (!d3.chan.dirB && b) m .dirB 1

/-- The events of these writes, by the pattern found. -/
def patternEvents (m : Nat) (a b : Bool) (c : Channel) : List LogEvent :=
  (if c.dirA = true ∧ a = false then [.pin m .dirA 0] else []) ++
  (if c.dirB = true ∧ b = false then [.pin m .dirB 0] else []) ++
  (if c.dirA = false ∧ a = true then [.pin m .dirA 1] else []) ++
  (if c.dirB = false ∧ b = true then [.pin m .dirB 1] else [])

/-- Each write is guarded by the level it changes, so every guard that holds logs one event: over the pattern found and
the one asked for. -/
theorem Drive.writePattern_log (m : Nat) (a b : Bool) (d : Drive) :
    (d.writePattern m a b).log = d.log ++ patternEvents m a b d.chan := by
  cases a <;> cases b <;> cases hA : d.chan.dirA <;> cases hB : d.chan.dirB <;>
    simp [Drive.writePattern, Drive.pinIf, Channel.setLevel, Channel.level, patternEvents, hA, hB]

/-- A bridge that has to turn takes its magnitude to 0 and then writes the pattern. -/
theorem Drive.turn_change {m : Nat} {a b : Bool} {d : Drive} (h : ¬(d.chan.dirA = a ∧ d.chan.dirB = b)) :
    d.turn m a b = (d.pin m .pwm 0).writePattern m a b :=
  if_neg h

/-- A direction change logs the magnitude going to 0, when it is not, and then the levels of the pattern that change. -/
theorem Drive.turn_log_change {m : Nat} {a b : Bool} {d : Drive} (h : ¬(d.chan.dirA = a ∧ d.chan.dirB = b)) :
    (d.turn m a b).log =
      d.log ++ (if d.chan.pwm.toNat = 0 then [] else [.pin m .pwm 0]) ++ patternEvents m a b d.chan := by
  rw [Drive.turn_change h, Drive.writePattern_log, Drive.pin_log, Drive.pin_chan]
  rfl

/-- A rejected call changes nothing and logs itself with its status. -/
theorem setDutyCore_rejected {m : Nat} {v : Int} {src : Source} {c : Channel} (h : dutyStatus v c ≠ .ok) :
    setDutyCore m v src c = { chan := c, log := [.duty m v src (dutyStatus v c)] } :=
  if_pos h

theorem dutyStatus_outOfRange {v : Int} (c : Channel) (h : v < -100 ∨ 100 < v) : dutyStatus v c = .invalidArgument :=
  if_pos h

theorem dutyStatus_disabled {v : Int} {c : Channel} (hlo : -100 ≤ v) (hhi : v ≤ 100) (hen : c.en = false) :
    dutyStatus v c = .disabled := by
  rw [dutyStatus_inRange c hlo hhi, hen]
  rfl

/-- An accepted call logs itself, the direction change and the magnitude. -/
theorem setDutyCore_log_accepted (m : Nat) {v : Int} (src : Source) {c : Channel} (h : dutyStatus v c = .ok) :
    (setDutyCore m v src c).log =
      ((Drive.turn m (decide (0 ≤ v)) (!decide (0 ≤ v)) { chan := c, log := [.duty m v src .ok] }).pin
        m .pwm v.natAbs).log := by
  simp [setDutyCore, h]

/-- Settles O36: a rejected call logs its status only; an accepted one logs by whether the bridge has to turn, and the
magnitude before its last write is the one found or, after a turn, 0. -/
theorem setDutyCoreTurnsInOrder : Obligations.SetDutyCoreTurnsInOrder := by
  intro m v src c
  refine ⟨fun hrange => ?_, fun hlo hhi hen => ?_, fun hacc => ?_⟩
  · have hst := dutyStatus_outOfRange c hrange
    rw [setDutyCore_rejected (by rw [hst]; decide), hst]
  · have hst := dutyStatus_disabled hlo hhi hen
    rw [setDutyCore_rejected (by rw [hst]; decide), hst]
  · have hok := dutyStatus_ok.mpr hacc
    refine Drive.eq_of_parts (by rw [setDutyCore_chan, if_pos hok]) ?_
    rw [setDutyCore_log_accepted m src hok, Drive.pin_log]
    by_cases hsame : c.dirA = decide (0 ≤ v) ∧ c.dirB = !decide (0 ≤ v)
    · rw [Drive.turn_same hsame, if_pos hsame]
      rfl
    · rw [Drive.turn_log_change hsame, Drive.turn_chan, if_neg hsame, if_neg hsame]
      simp [patternEvents, Channel.level, eq_comm (a := 0)]

/-! ## SET_DUTY (R243) -/

theorem readPctS_none {a : U64} : readPctS a = none ↔ a.toInt < -100 ∨ 100 < a.toInt := by
  rw [readPctS, ite_eq_right_iff]
  simp only [reduceCtorEq, imp_false]
  omega

/-- On a ready channel a percent out of range is rejected, and nothing is logged. -/
theorem exec_setDuty_outOfRange {s : State} {m : Nat} {c : Channel} (h : Ready s m c)
    (hrange : s.arg0.toInt < -100 ∨ 100 < s.arg0.toInt) :
    exec (.setDuty m) s = .next (s.setStatus .invalidArgument) := by
  refine (onChannel_ready h _).trans ?_
  rw [readPctS_none.mpr hrange]
  rfl

/-- On a ready channel a percent in range goes to SET_DUTY_CORE, whose status the command takes. -/
theorem exec_setDuty_inRange {s : State} {m : Nat} {c : Channel} (h : Ready s m c) (hlo : -100 ≤ s.arg0.toInt)
    (hhi : s.arg0.toInt ≤ 100) :
    exec (.setDuty m) s =
      .next ((s.commit m (setDutyCore m s.arg0.toInt .host c)).setStatus (dutyStatus s.arg0.toInt c)) := by
  refine (onChannel_ready h _).trans ?_
  rw [readPctS_some.mpr ⟨⟨hlo, hhi⟩, rfl⟩]
  by_cases hok : dutyStatus s.arg0.toInt c = .ok
  · rw [hok]
    exact if_neg (not_not_intro hok)
  · exact if_pos hok

/-- Writing back the channel that stands there with some events only logs them. -/
theorem commit_same {s : State} {m : Nat} {c : Channel} (hc : s.chans[m]? = some c) (es : List LogEvent) :
    s.commit m { chan := c, log := es } = s.emit es := by
  rw [State.commit, setChan_same hc]

/-- Settles O37: the range is the argument check, the rest is SET_DUTY_CORE with its status. -/
theorem setDutySetsOrRejects : Obligations.SetDutySetsOrRejects := by
  refine ⟨fun m hm => decodeCommand_wordOf (i := .setDuty m) rfl rfl rfl hm, fun s m c h =>
    ⟨exec_setDuty_outOfRange h, fun hlo hhi hen => ?_, fun hacc => ?_⟩⟩
  · have hst := dutyStatus_disabled hlo hhi hen
    rw [exec_setDuty_inRange h hlo hhi, setDutyCore_rejected (by rw [hst]; decide), hst, commit_same h.2]
    rfl
  · have ⟨hlo, hhi, _⟩ := hacc
    rw [exec_setDuty_inRange h hlo hhi, dutyStatus_ok.mpr hacc]
    rfl

/-! ## ENABLE, DISABLE and DRIFT (R245, R246, R247) -/

/-- A one-bit output logs its release when it is driven. -/
theorem ite_level_released (b : Bool) (es : List LogEvent) :
    (if b.toNat = 0 then [] else es) = if b = true then es else [] := by
  cases b <;> rfl

/-- A one-bit output logs its assertion when it is not driven. -/
theorem ite_level_asserted (b : Bool) (es : List LogEvent) :
    (if b.toNat = 1 then [] else es) = if b = true then [] else es := by
  cases b <;> rfl

/-- ENABLE raises EN and logs it when it was 0 (R245). -/
theorem enablePin_eq (m : Nat) (c : Channel) :
    Drive.pin m .en 1 { chan := c, log := [] } =
      { chan := { c with en := true }, log := if c.en = true then [] else [.pin m .en 1] } :=
  Drive.eq_of_parts (Drive.pin_chan ..) (by rw [Drive.pin_log, ← ite_level_asserted]; rfl)

/-- DRIFT logs the releases of the directions that were driven (R247). -/
theorem driftPins_log (m : Nat) (c : Channel) :
    (driftPins m c).log =
      (if c.dirA = true then [.pin m .dirA 0] else []) ++ (if c.dirB = true then [.pin m .dirB 0] else []) := by
  rw [← ite_level_released, ← ite_level_released, driftPins, Drive.pin_log, Drive.pin_log, Drive.pin_chan]
  rfl

/-- DISABLE logs the outputs that were not 0, in the order of its writes (R246). -/
theorem disablePins_log (m : Nat) (c : Channel) :
    (disablePins m c).log =
      (if c.pwm = 0 then [] else [.pin m .pwm 0]) ++ (if c.dirA = true then [.pin m .dirA 0] else []) ++
        (if c.dirB = true then [.pin m .dirB 0] else []) ++ (if c.en = true then [.pin m .en 0] else []) := by
  have hpwm : c.pwm = 0 ↔ c.pwm.toNat = 0 := BitVec.toNat_inj.symm
  simp only [← ite_level_released, hpwm, disablePins, Drive.pin_log, Drive.pin_chan]
  rfl

/-- Settles O38: on a ready channel each command commits its pin writes, which leave and log what is stated. -/
theorem enableDisableAndDriftWriteTheirPins : Obligations.EnableDisableAndDriftWriteTheirPins := by
  refine ⟨fun m hm => ⟨decodeCommand_wordOf (i := .enable m) rfl rfl rfl hm,
    decodeCommand_wordOf (i := .disable m) rfl rfl rfl hm,
    decodeCommand_wordOf (i := .drift m) rfl rfl rfl hm⟩, fun s m c h => ?_⟩
  rw [← disablePins_chan m c, ← disablePins_log, ← driftPins_chan m c, ← driftPins_log]
  refine ⟨(onChannel_ready h _).trans ?_, onChannel_ready h _, onChannel_ready h _⟩
  rw [enablePin_eq]
  rfl

/-! ## GET_MOTOR (R248) -/

/-- A field put above the bits of a word adds its shifted value. -/
theorem toNat_or_shiftLeft {w n : Nat} {low high : BitVec w} (hlow : low.toNat < 2 ^ n)
    (hhigh : high.toNat * 2 ^ n < 2 ^ w) : (low ||| high <<< n).toNat = low.toNat + high.toNat * 2 ^ n := by
  rw [BitVec.toNat_or, BitVec.toNat_shiftLeft, Nat.shiftLeft_eq, Nat.mod_eq_of_lt hhigh, Nat.or_comm, Nat.mul_comm,
    ← Nat.two_pow_add_eq_or_of_lt hlow, Nat.add_comm]

theorem bit64_toNat (b : Bool) : (bit64 b).toNat = b.toNat := by cases b <;> rfl

/-- A flag put above the bits of a word. -/
theorem toNat_or_bit64 {n : Nat} {low : U64} (b : Bool) (hlow : low.toNat < 2 ^ n) (hn : n < 64) :
    (low ||| bit64 b <<< n).toNat = low.toNat + b.toNat * 2 ^ n := by
  have hbit : (bit64 b).toNat * 2 ^ n ≤ 1 * 2 ^ n := Nat.mul_le_mul_right _ ((bit64_toNat b).trans_le b.toNat_le)
  rw [toNat_or_shiftLeft hlow (hbit.trans_lt (by simpa using Nat.pow_lt_pow_right (by decide) hn)), bit64_toNat]

/-- The packed output state as a sum (R248). -/
theorem packMotor_toNat (c : Channel) :
    (packMotor c).toNat =
      c.en.toNat + 2 * c.dirA.toNat + 4 * c.dirB.toNat + 8 * c.lastDir.toNat + 256 * c.pwm.toNat := by
  have hen := c.en.toNat_le
  have hA := c.dirA.toNat_le
  have hB := c.dirB.toNat_le
  have hlast := c.lastDir.toNat_le
  have hpct := c.pwm.isLt
  have hpwm : (c.pwm.setWidth 64).toNat = c.pwm.toNat := BitVec.toNat_setWidth_of_le (by decide)
  have h0 := bit64_toNat c.en
  have h1 := toNat_or_bit64 (n := 1) c.dirA (low := bit64 c.en) (by omega) (by decide)
  have h2 := toNat_or_bit64 (n := 2) c.dirB (low := bit64 c.en ||| bit64 c.dirA <<< 1) (by omega) (by decide)
  have h3 := toNat_or_bit64 (n := 3) c.lastDir
    (low := bit64 c.en ||| bit64 c.dirA <<< 1 ||| bit64 c.dirB <<< 2) (by omega) (by decide)
  rw [packMotor, toNat_or_shiftLeft (by omega) (by omega), hpwm]
  omega

/-- Settles O39: on a ready channel the command returns the packed outputs, which are the number stated. -/
theorem getMotorPacksTheOutputs : Obligations.GetMotorPacksTheOutputs := by
  refine ⟨fun m hm => decodeCommand_wordOf (i := .getMotor m) rfl rfl rfl hm, fun s m c h => ?_⟩
  rw [← packMotor_toNat, BitVec.ofNat_toNat, BitVec.setWidth_eq]
  exact onChannel_ready h _

end Sys2Proof.Machine
end

section
/-! PROOF. DISPATCH (R276): what its two passes leave of one channel, the single alarm that its third step arms, and that
every step keeps that alarm (R280). -/

namespace Sys2Proof.Machine

/-! ## The heads of the queues -/

/-- Step 1 of DISPATCH leaves an empty queue empty. -/
theorem completeHead_nil (now : U64) {c : Channel} (hq : c.q = []) : completeHead now c = { c with q := [] } := by
  simp only [completeHead, Channel.running, hq]
  rw [← hq]

/-- Step 1 of DISPATCH takes a head that runs and is due off its queue. -/
theorem completeHead_cons (now : U64) {c : Channel} {e : Entry} {es : List Entry} (hq : c.q = e :: es) :
    completeHead now c = { c with q := if e.run = true ∧ e.dl.toNat ≤ now.toNat then es else e :: es } := by
  by_cases hdue : e.run = true ∧ e.dl.toNat ≤ now.toNat
  · simp [completeHead, Channel.running, hq, hdue, Channel.pop]
  · rw [if_neg hdue, ← hq]
    rcases completeHead_cases now c with hkeep | ⟨e', es', hq', hrun, hdl, _⟩
    · exact hkeep
    · obtain ⟨rfl, rfl⟩ := List.cons.inj (hq.symm.trans hq')
      exact absurd ⟨hrun, hdl⟩ hdue

/-- Step 2 of DISPATCH passes over a queue without a PENDING head. -/
theorem startHead_notPending (now : U64) (m : Nat) {c : Channel} (h : ∀ e es, c.q = e :: es → e.run = true) :
    startHead now m c = { chan := c, log := [] } := by
  rcases startHead_cases now m c with ⟨heq, _⟩ | ⟨e, es, hq, hrun, _⟩
  · exact heq
  · simp [h e es hq] at hrun

theorem setDutyCore_flags (m : Nat) (v : Int) (src : Source) (c : Channel) :
    (setDutyCore m v src c).chan.flags = c.flags := by
  obtain ⟨a, b, p, l, heq⟩ := setDutyCore_frame m v src c
  rw [heq]

/-- Step 2 of DISPATCH starts a PENDING head, and sets the flag when its duty is rejected. -/
theorem startHead_pending (now : U64) (m : Nat) {c : Channel} {e : Entry} {es : List Entry} (hq : c.q = e :: es)
    (hrun : e.run = false) :
    startHead now m c =
      { chan :=
          { (setDutyCore m (spow e) .sched c).chan with
            flags :=
              if DutyAccepted (spow e) c then (setDutyCore m (spow e) .sched c).chan.flags
              else (setDutyCore m (spow e) .sched c).chan.flags ||| flagOutrejSched
            q := { e with dl := BitVec.ofNat 64 (now.toNat + e.dur.toNat), run := true } :: es }
        log := (setDutyCore m (spow e) .sched c).log } := by
  rcases startHead_cases now m c with ⟨_, hnil | hsome⟩ | ⟨e', es', hq', _, heq⟩
  · simp [hnil] at hq
  · simp [Channel.running, hq, hrun] at hsome
  · obtain ⟨rfl, rfl⟩ := List.cons.inj (hq.symm.trans hq')
    simp only [heq, setDutyCore_flags, dutyStatus_ok]

/-! ## The alarm (R276, R280) -/

theorem mem_runningDeadlines {cs : List Channel} {n : Nat} :
    n ∈ runningDeadlines cs ↔ ∃ c ∈ cs, ∃ e, c.running = some e ∧ e.dl.toNat = n := by
  simp [runningDeadlines]

/-- The last step of DISPATCH makes the alarm sound, whatever it was. -/
theorem alarmSound_armAlarm (s : State) : AlarmSound s.armAlarm := by
  rcases s.armAlarm_cases with ⟨hnone, heq⟩ | ⟨t, ht, hleast, heq⟩
  · have hidle : ∀ c ∈ s.chans, c.running = none := fun c hc => by
      by_contra hrun
      obtain ⟨e, he⟩ := Option.ne_none_iff_exists'.mp hrun
      have hmem := mem_runningDeadlines.mpr ⟨c, hc, e, he, rfl⟩
      simp [hnone] at hmem
    rw [heq]
    refine ⟨⟨nofun, ?_⟩, nofun, fun _ => rfl⟩
    rintro ⟨c, hc, hrun⟩
    simp [hidle c hc] at hrun
  · obtain ⟨c, hc, e, he, rfl⟩ := mem_runningDeadlines.mp ht
    rw [heq]
    refine ⟨⟨fun _ => ⟨c, hc, by simp [he]⟩, fun _ => rfl⟩, fun _ => ⟨⟨c, hc, by simp [he]⟩, ?_⟩, nofun⟩
    intro c' hc' e' he'
    simpa using hleast _ (mem_runningDeadlines.mpr ⟨c', hc', e', he', rfl⟩)

theorem alarmSound_dispatch (s : State) : AlarmSound (dispatch s) := alarmSound_armAlarm _

/-! ## Every step keeps the alarm sound (R280) -/

/-- The alarm fits these heads of the queues; `none` is a channel on which nothing runs. -/
def AlarmFits (arm : Bool) (at' : U64) (heads : List (Option Entry)) : Prop :=
  (arm = true ↔ ∃ r ∈ heads, r.isSome = true) ∧
    (arm = true → (∃ r ∈ heads, r.map (·.dl) = some at') ∧ ∀ r ∈ heads, ∀ e ∈ r, at'.toNat ≤ e.dl.toNat) ∧
    (arm = false → at' = 0)

/-- Whether the alarm is sound is a matter of the alarm and the running heads alone. -/
theorem alarmSound_iff (s : State) :
    AlarmSound s ↔ AlarmFits s.alarmArm s.alarmAt (s.chans.map Channel.running) := by
  simp only [AlarmSound, AlarmFits, List.mem_map, exists_exists_and_eq_and,
    forall_exists_index, and_imp, forall_apply_eq_imp_iff₂]

/-- Only an instruction that runs DISPATCH and EV_RESET write a queue (R75), so no other changes what runs. -/
theorem exec_running {i : Instr} {s t : State} (h : exec i s = .next t) (hr : i ≠ .evReset) (hd : ¬Sched i) :
    t.chans.map Channel.running = s.chans.map Channel.running := by
  obtain ⟨_, _, _, _, _, _, _, _, _, hlen⟩ := exec_fixed h hr
  apply List.ext_getElem?
  intro k
  rw [List.getElem?_map, List.getElem?_map]
  cases hk : s.chans[k]? with
  | none => rw [List.getElem?_eq_none (hlen.trans_le (List.getElem?_eq_none_iff.mp hk))]
  | some c =>
    obtain ⟨c', hk', _, _, _, _, _, _, _, _, _, _, _, _, _, _, _, _, _, _, _, _, _, _, hq, _⟩ :=
      onlyListedTransitionsWriteAChannel i s t k c h hr hk
    rw [hk', Option.map_some, Option.map_some, Channel.running, Channel.running, hq.resolve_right hd]

theorem exec_keeps_alarmSound_of_notSched {i : Instr} {s t : State} (hs : AlarmSound s) (h : exec i s = .next t)
    (hr : i ≠ .evReset) (hd : ¬Sched i) : AlarmSound t := by
  obtain ⟨harm, hat⟩ := exec_alarm h hr hd
  rwa [alarmSound_iff, harm, hat, exec_running h hr hd, ← alarmSound_iff]

/-- A reset disarms the alarm and empties every queue (R370). -/
theorem alarmSound_reset (s : State) : AlarmSound (resetBlock s) := by
  simp [AlarmSound, resetBlock, Channel.resetRegs, Channel.running]

/-- Every instruction keeps the alarm sound: DISPATCH arms it anew, and the instructions without DISPATCH leave it and the
heads. -/
theorem exec_keeps_alarmSound {i : Instr} {s t : State} (hs : AlarmSound s) (h : exec i s = .next t) :
    AlarmSound t := by
  by_cases hd : Sched i
  · cases exec_effect h with
    | rejected | answered => exact hs
    | enqueue | stop | evAlarm => exact alarmSound_dispatch _
    | _ => simp [Sched] at hd
  · by_cases hr : i = .evReset
    · subst hr
      cases h
      exact alarmSound_reset s
    · exact exec_keeps_alarmSound_of_notSched hs h hr hd

/-- Settles O47: every instruction keeps the invariant, and it does not look at the host's side of the block. -/
theorem stepKeepsTheSingleAlarm : Obligations.StepKeepsTheSingleAlarm := fun _ _ hs h =>
  step_keeps AlarmSound (fun _ _ _ => exec_keeps_alarmSound) (fun _ _ _ _ _ _ _ _ _ hs => hs) hs h

/-! ## DISPATCH, channel by channel (R276) -/

theorem dispatch_chans (s : State) :
    (dispatch s).chans = s.chans.mapIdx fun m c => (dispatchHead s.now m c).chan := by
  rw [dispatch_eq]

/-- Settles O41: on each channel step 1 leaves the channel `c1` of the statement, and step 2 passes it over or starts its
PENDING head. -/
theorem dispatchCompletesStartsAndArms : Obligations.DispatchCompletesStartsAndArms := by
  intro s
  refine ⟨s.chans.mapIdx fun m c => (dispatchHead s.now m c).log, List.length_mapIdx, dispatch_chans_length s, ?_,
    alarmSound_dispatch s, fun m c c1 hc hc1 => ?_⟩
  · rw [dispatch_chans]
    exact dispatch_eq s
  have hcomplete : completeHead s.now c = c1 := by
    rw [hc1]
    cases hq : c.q with
    | nil => exact completeHead_nil s.now hq
    | cons e es => exact completeHead_cons s.now hq
  have hpass : ∀ d, startHead s.now m c1 = d →
      (dispatch s).chans[m]? = some d.chan ∧
        (s.chans.mapIdx fun m c => (dispatchHead s.now m c).log)[m]? = some d.log := by
    rintro _ rfl
    simp [dispatch_getElem?, List.getElem?_mapIdx, hc, dispatchHead, hcomplete]
  refine ⟨fun hq => hpass _ (startHead_notPending s.now m (by simp [hq])), fun e es hq =>
    ⟨fun hrun => hpass _ (startHead_notPending s.now m (by simp [hq, hrun])), fun hrun => ?_⟩⟩
  obtain ⟨hchan, hlog⟩ := hpass _ (startHead_pending s.now m hq hrun)
  exact ⟨hlog, hchan⟩

end Sys2Proof.Machine
end

section
/-! PROOF. ActionScheduler's event and commands: EV_ALARM (R278), ENQUEUE (R272, R282), STOP (R273) and the reads (R274,
R275, R279); and that an instruction without DISPATCH leaves the other channels (R284, R349). -/

namespace Sys2Proof.Machine

/-! ## EV_ALARM (R278) -/

/-- Settles O45: the enable condition is the premise of the first clause, and its negation that of the second. -/
theorem alarmFiresOnlyWhenDue : Obligations.AlarmFiresOnlyWhenDue := by
  refine ⟨by rfl, fun s => ⟨fun harm hdue hh => if_pos (alarmEnabled_iff.mpr ⟨hh, harm, hdue⟩), fun hnot => if_neg ?_⟩⟩
  rw [alarmEnabled_iff]
  rintro ⟨hh, harm, hdue⟩
  rcases hnot with h | h | h
  · simp [h] at harm
  · omega
  · simp [h] at hh

/-! ## The arguments of ENQUEUE (R104, R272) -/

/-- The action codes of R69. -/
theorem readAction_some {a : U64} {act : Action} :
    readAction a = some act ↔ (a, act) ∈ [(0#64, .idle), (1#64, .forward), (2#64, .reverse)] := by
  unfold readAction
  split_ifs with h0 h1 h2
  · simp [h0, eq_comm]
  · simp [h1, eq_comm]
  · simp [h2, eq_comm]
  · simp_all

theorem readPctU_of_le {a : U64} (h : a.toNat ≤ 100) : readPctU a = some (a.setWidth 7) := if_pos h

theorem readU32_of_lt {a : U64} (h : a.toNat < 2 ^ 32) : readU32 a = some (a.setWidth 32) := if_pos h

/-- A list of argument checks ends with INVALID_ARGUMENT when the checks that follow do for every value that is read. -/
theorem withArg_rejected {α : Type} {s : State} {a : Option α} {body : α → Result}
    (hb : ∀ v, a = some v → body v = .next (s.setStatus .invalidArgument)) :
    withArg a s body = .next (s.setStatus .invalidArgument) := by
  cases a with
  | none => rfl
  | some v => exact hb v rfl

/-! ## ENQUEUE and STOP (R272, R273, R282) -/

/-- With legal arguments only the capacity is left to check. -/
theorem exec_enqueue_legal {s : State} {m : Nat} {c : Channel} {act : Action} (h : Ready s m c)
    (hact : readAction s.arg0 = some act) (hpwr : s.arg1.toNat ≤ 100) (hdur : s.arg2.toNat < 2 ^ 32) :
    exec (.enqueue m) s =
      if s.params.qcap ≤ c.q.length then .next (s.setStatus .resourceExhausted)
      else .next ((dispatch (s.setChan m
        (c.push (pendingEntry act (s.arg1.setWidth 7) (s.arg2.setWidth 32))))).setStatus .ok) := by
  refine (onChannel_ready h _).trans ?_
  rw [hact, readPctU_of_le hpwr, readU32_of_lt hdur]
  rfl

theorem exec_enqueue_illegal {s : State} {m : Nat} {c : Channel} (h : Ready s m c)
    (hbad : 2 < s.arg0.toNat ∨ 100 < s.arg1.toNat ∨ 2 ^ 32 ≤ s.arg2.toNat) :
    exec (.enqueue m) s = .next (s.setStatus .invalidArgument) := by
  refine (onChannel_ready h _).trans
    (withArg_rejected fun act hact => withArg_rejected fun pwr hpwr => withArg_rejected fun dur hdur => ?_)
  have hact : ¬2 < s.arg0.toNat := mt readAction_none.mpr (by simp [hact])
  have hpwr := readPctU_some.mp hpwr
  have hdur := readU32_some.mp hdur
  omega

theorem exec_enqueue_full {s : State} {m : Nat} {c : Channel} (h : Ready s m c) (hact : s.arg0.toNat ≤ 2)
    (hpwr : s.arg1.toNat ≤ 100) (hdur : s.arg2.toNat < 2 ^ 32) (hfull : s.params.qcap ≤ c.q.length) :
    exec (.enqueue m) s = .next (s.setStatus .resourceExhausted) := by
  obtain ⟨act, hact⟩ := Option.ne_none_iff_exists'.mp (mt readAction_none.mp hact.not_gt)
  rw [exec_enqueue_legal h hact hpwr hdur, if_pos hfull]

theorem decodeCommand_enqueue {m : Nat} (hm : m < 16) : decodeCommand (wordOf 0x40 m) = .ok (.enqueue m) :=
  decodeCommand_wordOf (i := .enqueue m) rfl rfl rfl hm

/-- Settles O42: legal arguments leave the capacity check, and every illegal one is caught before it. -/
theorem enqueuePushesAndDispatches : Obligations.EnqueuePushesAndDispatches := by
  refine ⟨fun m hm => decodeCommand_enqueue hm, fun s m c h =>
    ⟨fun act hact hpwr hdur hroom => ?_, exec_enqueue_illegal h, exec_enqueue_full h⟩⟩
  rw [exec_enqueue_legal h (readAction_some.mpr hact) hpwr hdur, if_neg hroom.not_ge]
  rfl

/-- Settles O43: the word runs ENQUEUE on the state that holds it, where the queue is full too. -/
theorem fullQueueRejectsAndKeepsItsContents : Obligations.FullQueueRejectsAndKeepsItsContents := by
  intro s m c hm h hfull hact hpwr hdur
  have hword : ((wordOf 0x40 m).setWidth 64).setWidth 32 = wordOf 0x40 m := by simp
  rw [commandWrite_word s (upperClear_setWidth _), hword, runCommandWord_ok _ (decodeCommand_enqueue hm)]
  exact exec_enqueue_full (s := { s with cmd := wordOf 0x40 m }) h hact hpwr hdur hfull.ge

/-- Settles O44: the word decodes by the format, and on a ready channel the body of the command runs, with no check. -/
theorem stopDrainsAndInjects : Obligations.StopDrainsAndInjects :=
  ⟨fun m hm => decodeCommand_wordOf (i := .stop m) rfl rfl rfl hm, fun _ _ _ h => onChannel_ready h _⟩

/-! ## The reads (R274, R275, R279) -/

/-- The running bit above the 8 bits of the length (R274). -/
theorem ofNat_or_runningBit {n : Nat} (hn : n < 256) :
    BitVec.ofNat 64 n ||| ((1 <<< 8 : Nat) : U64) = BitVec.ofNat 64 (n + 256) := by
  have hlen : (BitVec.ofNat 64 n).toNat = n := Nat.mod_eq_of_lt (by omega)
  apply BitVec.eq_of_toNat_eq
  calc (BitVec.ofNat 64 n ||| (1 : U64) <<< 8).toNat = (BitVec.ofNat 64 n).toNat + (1 : U64).toNat * 2 ^ 8 :=
        toNat_or_shiftLeft (by omega) (by decide)
    _ = n + 256 := by rw [hlen]; rfl
    _ = (BitVec.ofNat 64 (n + 256)).toNat := (Nat.mod_eq_of_lt (by omega)).symm

/-- QUEUE_STATUS with a running head: the length with the running bit above its 8 bits. -/
theorem exec_queueStatus_running {s : State} {m : Nat} {c : Channel} {e : Entry} {es : List Entry} (h : Ready s m c)
    (hlen : c.q.length < 256) (hq : c.q = e :: es) (hrun : e.run = true) :
    exec (.queueStatus m) s = finish2 (BitVec.ofNat 64 (c.q.length + 256)) e.dl s := by
  have hhead : c.running = some e := by simp [Channel.running, hq, hrun]
  refine (onChannel_ready h _).trans ?_
  simp only [hhead, ofNat_or_runningBit hlen]

/-- QUEUE_STATUS with no running head. -/
theorem exec_queueStatus_idle {s : State} {m : Nat} {c : Channel} (h : Ready s m c)
    (hidle : ∀ e es, c.q = e :: es → e.run = false) :
    exec (.queueStatus m) s = finish2 (BitVec.ofNat 64 c.q.length) 0 s := by
  have hhead : c.running = none := by
    cases hq : c.q with
    | nil => simp [Channel.running, hq]
    | cons e es => simp [Channel.running, hq, hidle e es hq]
  refine (onChannel_ready h _).trans ?_
  simp only [hhead]

theorem Action.code_toNat_le (act : Action) : act.code.toNat ≤ 2 := by cases act <;> decide

/-- The packed entry as a sum (R275). -/
theorem packEntry_toNat (e : Entry) :
    (packEntry e).toNat = e.act.code.toNat + 2 ^ 8 * e.pwr.toNat + 2 ^ 16 * e.run.toNat + 2 ^ 32 * e.dur.toNat := by
  have hact := e.act.code_toNat_le
  have hpwr := e.pwr.isLt
  have hrun := e.run.toNat_le
  have hdur := e.dur.isLt
  have hpwr64 : (e.pwr.setWidth 64).toNat = e.pwr.toNat := BitVec.toNat_setWidth_of_le (by decide)
  have hdur64 : (e.dur.setWidth 64).toNat = e.dur.toNat := BitVec.toNat_setWidth_of_le (by decide)
  have h8 := toNat_or_shiftLeft (n := 8) (low := e.act.code) (high := e.pwr.setWidth 64) (by omega) (by omega)
  have h16 := toNat_or_bit64 (n := 16) (low := e.act.code ||| e.pwr.setWidth 64 <<< 8) e.run (by omega) (by decide)
  rw [packEntry, toNat_or_shiftLeft (by omega) (by omega)]
  omega

/-- QUEUE_PEEK of an entry of the queue. -/
theorem exec_queuePeek {s : State} {m : Nat} {c : Channel} {e : Entry} (h : Ready s m c)
    (he : c.q[s.arg0.toNat]? = some e) :
    exec (.queuePeek m) s =
      finish2 (BitVec.ofNat 64
        (e.act.code.toNat + 2 ^ 8 * e.pwr.toNat + 2 ^ 16 * e.run.toNat + 2 ^ 32 * e.dur.toNat))
        (if e.run = true then e.dl else 0) s := by
  refine (onChannel_ready h _).trans ?_
  rw [readEntry, he, ← packEntry_toNat, BitVec.ofNat_toNat, BitVec.setWidth_eq]
  rfl

/-- QUEUE_PEEK beyond the queue. -/
theorem exec_queuePeek_beyond {s : State} {m : Nat} {c : Channel} (h : Ready s m c)
    (hlen : c.q.length ≤ s.arg0.toNat) : exec (.queuePeek m) s = .next (s.setStatus .invalidArgument) := by
  refine (onChannel_ready h _).trans ?_
  rw [readEntry, List.getElem?_eq_none hlen]
  rfl

/-- Settles O46: the words decode by the format, and on a ready channel each read is its results and its status. -/
theorem queueAndAlarmReadsPackTheirResults : Obligations.QueueAndAlarmReadsPackTheirResults := by
  refine ⟨⟨fun m hm => ⟨decodeCommand_wordOf (i := .queueStatus m) rfl rfl rfl hm,
    decodeCommand_wordOf (i := .queuePeek m) rfl rfl rfl hm⟩, by rfl⟩, fun s hh => ⟨?_, fun m c hc hlen =>
    ⟨fun e es => exec_queueStatus_running ⟨hh, hc⟩ hlen, exec_queueStatus_idle ⟨hh, hc⟩, fun e he => ?_,
      exec_queuePeek_beyond ⟨hh, hc⟩⟩⟩⟩
  · rw [← bit64_toNat, BitVec.ofNat_toNat, BitVec.setWidth_eq]
    exact onGlobal_ready hh _
  · rw [exec_queuePeek ⟨hh, hc⟩ he]
    cases e.act <;> rfl

/-! ## The other channels (R284, R349) -/

/-- Settles O59: what is left of the instructions for one channel writes that channel or none. -/
theorem channelsAreIndependent : Obligations.ChannelsAreIndependent := by
  intro i s t m k h hm hd hk
  cases exec_effect h with
  | rejected | answered => rfl
  | enqueue => exact absurd (.inl ⟨_, rfl⟩) hd
  | stop => exact absurd (.inr (.inl ⟨_, rfl⟩)) hd
  | evAlarm | evTime | evReset => cases hm
  | _ =>
    cases hm
    exact setChan_other s _ hk

end Sys2Proof.Machine
end

section
/-! PROOF. The time base and the system commands: EV_TIME (R310), NOP, GET_TIME, GET_FLAGS and CLEAR_FLAGS (R311 to
R314); and that an edge or a tick that has run is not enabled again at the same time (R396). -/

namespace Sys2Proof.Machine

/-! ## Events that disable themselves (R396) -/

/-- The events of a channel that exists are listed as enabled exactly when their conditions hold on its registers. -/
theorem mem_enabledEvents_of_chan {s : State} {m : Nat} {c : Channel} (hc : s.chans[m]? = some c) :
    (.evEdge m ∈ enabledEvents s ↔ edgeEnabled s c = true) ∧ (.evVtick m ∈ enabledEvents s ↔ vtickEnabled s c = true) ∧
      (.evPtick m ∈ enabledEvents s ↔ ptickEnabled s c = true) := by
  simp [mem_enabledEvents, mem_enabledOnChannel, hc]

/-- On a ready channel sound times are within TIME_MAX and the periods are positive (R38, R49, R60). -/
theorem timeSound_ready {s : State} {m : Nat} {c : Channel} (hs : TimeSound s) (h : Ready s m c) :
    s.now.toNat ≤ Config.timeMax ∧ 1 ≤ c.vPeriodMs.toNat ∧ 1 ≤ c.pidTMs.toNat := by
  obtain ⟨hnow, hch⟩ := (timeSound_iff s).mp hs
  obtain ⟨_, _, htimes⟩ := hch c (List.mem_of_getElem? h.2)
  obtain ⟨hper, hint, _⟩ := htimes h.1
  exact ⟨hnow, hper, hint⟩

/-- The next due time of a tick is later than the tick, by a positive period that does not wrap (R171). -/
theorem lt_sampleStep_vNext {t : U64} {c : Channel} (ht : t.toNat ≤ Config.timeMax) (hper : 1 ≤ c.vPeriodMs.toNat) :
    t.toNat < (sampleStep t c).vNext.toNat :=
  calc t.toNat < t.toNat + c.vPeriodMs.toNat * 1000 := by omega
    _ = (sampleStep t c).vNext.toNat := (dueAfter_toNat ht c.vPeriodMs).symm

/-- After a PID step at time `now` no step is due at `now`, when the interval is positive (R209, R210). -/
theorem not_pidDue_pidStep {now : U64} (m : Nat) {c : Channel} (hint : 1 ≤ c.pidTMs.toNat) :
    ¬pidDue now (pidStep now m c).chan = true := by
  obtain ⟨_, _, _, _, _, heq⟩ := pidStep_frame now m c
  rw [pidDue_iff, heq]
  dsimp only
  omega

theorem exec_evEdge_disables {s t : State} {m : Nat} (h : exec (.evEdge m) s = .next t) :
    .evEdge m ∉ enabledEvents t := by
  cases exec_effect h with
  | rejected he | answered _ _ he => cases he
  | @evEdge _ c hc _ =>
    obtain ⟨hmem, _, _⟩ := mem_enabledEvents_of_chan (setChan_self hc.2 (edgeStep c))
    obtain ⟨hpend, _⟩ := edgeStep_inStep c
    rw [hmem, edgeEnabled_iff, hpend]
    exact nofun

theorem exec_evVtick_disables {s t : State} {m : Nat} (hs : TimeSound s) (h : exec (.evVtick m) s = .next t) :
    .evVtick m ∉ enabledEvents t := by
  cases exec_effect h with
  | rejected he | answered _ _ he => cases he
  | @evVtick _ c hc _ =>
    obtain ⟨_, hmem, _⟩ := mem_enabledEvents_of_chan (setChan_self hc.2 (sampleStep s.now c))
    obtain ⟨hnow, hper, _⟩ := timeSound_ready hs hc
    rw [hmem, vtickEnabled_iff]
    exact fun ⟨_, hdue⟩ => (lt_sampleStep_vNext hnow hper).not_ge hdue

theorem exec_evPtick_disables {s t : State} {m : Nat} (hs : TimeSound s) (h : exec (.evPtick m) s = .next t) :
    .evPtick m ∉ enabledEvents t := by
  cases exec_effect h with
  | rejected he | answered _ _ he => cases he
  | @evPtick _ c hc _ _ =>
    have hchan : (s.commit m (pidStep s.now m c)).chans[m]? = some (pidStep s.now m c).chan := setChan_self hc.2 _
    obtain ⟨_, _, hmem⟩ := mem_enabledEvents_of_chan hchan
    obtain ⟨_, _, hint⟩ := timeSound_ready hs hc
    rw [hmem, ptickEnabled_iff]
    exact fun ⟨_, _, hdue⟩ => not_pidDue_pidStep m hint (pidDue_iff.mpr hdue)

/-- Settles O52: none of the three events writes the time, and each leaves its own condition false. -/
theorem internalEventsDisableThemselves : Obligations.InternalEventsDisableThemselves := by
  intro s t m hs h
  refine ⟨?_, exec_evEdge_disables, exec_evVtick_disables hs, exec_evPtick_disables hs⟩
  rcases h with h | h | h <;> exact exec_now h nofun nofun

/-! ## EV_TIME (R310) -/

theorem timeEnabled_iff {d : Nat} {s : State} :
    timeEnabled d s = true ↔ 1 ≤ d ∧ s.now.toNat + d ≤ Config.timeMax := decide_eq_true_iff

/-- Settles O49: the enable condition is the premise of the first clause, and its negation that of the second. -/
theorem timeAdvancesWithinItsBound : Obligations.TimeAdvancesWithinItsBound := by
  refine ⟨by rfl, fun s d => ⟨fun hpos hmax => ?_, fun hnot => if_neg ?_⟩⟩
  · have hsum : s.now + BitVec.ofNat 64 d = BitVec.ofNat 64 (s.now.toNat + d) := by
      rw [BitVec.ofNat_add, BitVec.ofNat_toNat, BitVec.setWidth_eq]
    rw [hsum]
    exact if_pos (timeEnabled_iff.mpr ⟨hpos, hmax⟩)
  · rw [timeEnabled_iff, Config.timeMax]
    omega

/-! ## NOP, the time and the flags (R311 to R314) -/

theorem readMask3_setWidth (mask : BitVec 3) : readMask3 (mask.setWidth 64) = some mask := by
  have hlt : mask.toNat < 8 := mask.isLt
  have hval : (mask.setWidth 64).toNat = mask.toNat := by rw [BitVec.toNat_setWidth]; omega
  exact readMask3_some.mpr ⟨hval ▸ hlt, hval⟩

theorem exec_clearFlags {s : State} {m : Nat} {c : Channel} {mask : BitVec 3} (h : Ready s m c)
    (harg : s.arg0 = mask.setWidth 64) :
    exec (.clearFlags m) s = .next ((s.setChan m (c.clearFlags mask)).setStatus .ok) := by
  refine (onChannel_ready h _).trans ?_
  rw [harg, readMask3_setWidth]
  rfl

theorem exec_clearFlags_rejected {s : State} {m : Nat} {c : Channel} (h : Ready s m c) (hbad : 8 ≤ s.arg0.toNat) :
    exec (.clearFlags m) s = .next (s.setStatus .invalidArgument) :=
  (onChannel_ready h _).trans (withArg_rejected fun _ hmask => absurd (readMask3_some.mp hmask).1 hbad.not_gt)

/-- Settles O50: the words decode by the format, and on a ready channel each command runs its body. -/
theorem systemCommandsReadTimeAndClearFlags : Obligations.SystemCommandsReadTimeAndClearFlags := by
  refine ⟨⟨by rfl, by rfl, fun m hm => ⟨decodeCommand_wordOf (i := .getFlags m) rfl rfl rfl hm,
    decodeCommand_wordOf (i := .clearFlags m) rfl rfl rfl hm⟩⟩, fun s hh =>
    ⟨onGlobal_ready hh _, onGlobal_ready hh _, fun m c hc =>
      ⟨?_, fun mask => exec_clearFlags ⟨hh, hc⟩, exec_clearFlags_rejected ⟨hh, hc⟩⟩⟩⟩
  rw [BitVec.ofNat_toNat]
  exact onChannel_ready ⟨hh, hc⟩ _

end Sys2Proof.Machine
end

section
/-! PROOF. What a step does beside the meanings of the instructions: the choice among the enabled internal events (R345,
R396), what a rejected command leaves (R331), and the configuration halt (R336, R372). -/

namespace Sys2Proof.Machine

/-! ## The step with no move waiting (R345, R396) -/

/-- An event that is listed as enabled has a next state. -/
theorem exec_enabled_hasNext {i : Instr} {s : State} (h : i ∈ enabledEvents s) : HasNext (exec i s) := by
  rcases mem_enabledEvents.mp h with ⟨m, hm⟩ | ⟨rfl, halarm⟩
  · obtain ⟨c, hc, ⟨rfl, hen⟩ | ⟨rfl, hen⟩ | ⟨rfl, hen⟩⟩ := mem_enabledOnChannel.mp hm
    · exact ⟨_, onEvent_enabled hc hen _⟩
    · exact ⟨_, onEvent_enabled hc hen _⟩
    · exact ⟨_, onEvent_enabled hc hen _⟩
  · exact ⟨_, if_pos halarm⟩

theorem quiescent_eq_true {s : State} : quiescent s = true ↔ enabledEvents s = [] := List.isEmpty_iff

theorem internalStep_quiescent {s : State} (h : quiescent s = true) : internalStep s = .fault .quiescent := by
  simp [internalStep, quiescent_eq_true.mp h]

/-- Where an internal event is enabled, the free choice falls on one of the list. -/
theorem internalStep_enabled {s : State} (h : quiescent s = false) :
    ∃ i ∈ enabledEvents s, internalStep s = exec i { s with choices := s.choices + 1 } := by
  have hne : enabledEvents s ≠ [] := fun hnil => by simp [quiescent, hnil] at h
  have hpick := Nat.mod_lt (Config.freePick s.choices) (List.length_pos_iff.mpr hne)
  exact ⟨_, List.getElem_mem hpick, by simp only [internalStep, List.getElem?_eq_getElem hpick]⟩

/-- Settles O9: the choice falls on an enabled event, and the counter of the choices stands in no enable condition. -/
theorem idleStepRunsAnEnabledInternalEvent : Obligations.IdleStepRunsAnEnabledInternalEvent := by
  intro s hag
  have hstep : step s = internalStep s := by simp only [step, hag]
  rw [hstep]
  refine ⟨internalStep_quiescent, fun hq => ?_⟩
  obtain ⟨i, hi, heq⟩ := internalStep_enabled hq
  have hi' : i ∈ enabledEvents { s with choices := s.choices + 1 } := hi
  obtain ⟨t, ht⟩ := exec_enabled_hasNext hi'
  exact ⟨i, hi, t, ht, heq.trans ht⟩

/-! ## What a rejected command leaves (R331) -/

/-- A duty that SET_DUTY_CORE turns away is one event in the log and nothing else (R244). -/
theorem commit_setDutyCore_rejected {s : State} {m : Nat} {c : Channel} {v : Int} {src : Source}
    (hc : s.chans[m]? = some c) (h : dutyStatus v c ≠ .ok) :
    s.commit m (setDutyCore m v src c) = s.emit [.duty m v src (dutyStatus v c)] := by
  rw [setDutyCore_rejected h, State.commit, setChan_same hc]

/-- A duty in range that is not accepted meets a disabled motor (R244). -/
theorem dutyStatus_eq_disabled {v : Int} {c : Channel} (hrange : dutyStatus v c ≠ .invalidArgument)
    (hst : dutyStatus v c ≠ .ok) : dutyStatus v c = .disabled := by
  by_cases hout : v < -100 ∨ 100 < v
  · exact absurd (dutyStatus_outOfRange c hout) hrange
  · rw [dutyStatus_inRange c (by omega) (by omega)] at hst ⊢
    exact if_neg fun hen => hst (if_pos hen)

/-- A command that is rejected writes its status, and SET_DUTY on a disabled motor logs its one event too. -/
theorem exec_rejected {i : Instr} {s t : State} (h : exec i s = .next t) (he : i.isEvent = false)
    (hst : t.status ≠ .ok) :
    t = s.setStatus t.status ∨
      ∃ m v, i = .setDuty m ∧ t = (s.emit [.duty m v .host .disabled]).setStatus .disabled := by
  cases exec_effect h with
  | rejected => exact .inl rfl
  | @setDuty m c v hc hrange =>
    have hdis : dutyStatus v c = .disabled := dutyStatus_eq_disabled hrange hst
    rw [commit_setDutyCore_rejected hc.2 hst, hdis]
    exact .inr ⟨m, v, rfl, rfl⟩
  | evPhase | evEdge | evVtick | evPtick | evAlarm | evTime | evReset => cases he
  | _ => exact absurd rfl hst

/-- Settles O14: the write is turned away with the word in G.CMD, or the command it runs is rejected. -/
theorem rejectionsRetainTheState : Obligations.RejectionsRetainTheState := by
  intro s t v h hst
  rcases commandWrite_cases v s with ⟨st, _, _, heq⟩ | ⟨i, _, hd, heq⟩
  · obtain rfl := Host.Outcome.next.inj (heq.symm.trans h)
    exact .inl rfl
  · rcases exec_rejected (heq.symm.trans h) (decodeCommand_isEvent hd) hst with hkeep | ⟨m, d, rfl, rfl⟩
    · exact .inl hkeep
    · exact .inr ⟨m, d, hd, rfl, rfl⟩

/-! ## The halted block (R336) -/

/-- EV_PTICK has no step on a halted block. -/
theorem exec_evPtick_halted {s : State} {m : Nat} {c : Channel} (hc : s.chans[m]? = some c) (h : s.cfgHalt = true) :
    exec (.evPtick m) s = .fault .eventNotEnabled :=
  onEvent_notEnabled hc (by simp [ptickEnabled, h]) _

/-- The check of the configuration at a reset (R372). -/
theorem resetBlock_cfgHalt (s : State) : (resetBlock s).cfgHalt = !s.configValid := rfl

/-- Settles O15: the halt turns every command away and stands in the enable condition of every internal event; EV_PHASE,
EV_TIME and EV_RESET do not ask for it. -/
theorem configurationHaltFreezesTheBlock : Obligations.ConfigurationHaltFreezesTheBlock := by
  intro s hh
  obtain ⟨_, halarm⟩ := alarmFiresOnlyWhenDue
  obtain ⟨_, htime⟩ := timeAdvancesWithinItsBound
  refine ⟨fun i he => exec_command_halted he hh, fun m hm => ?_, (halarm s).2 (.inr (.inr hh)),
    fun d hpos hmax => ⟨_, (htime s d).1 hpos hmax⟩, fun hbad => ⟨resetBlock s, rfl, ?_⟩⟩
  · have hc := List.getElem?_eq_getElem hm
    exact ⟨exec_evEdge_notEnabled hc (.inr hh), exec_evVtick_notEnabled hc (.inr hh), exec_evPtick_halted hc hh,
      fun a b => ⟨_, exec_evPhase a b hc⟩⟩
  · rw [resetBlock_cfgHalt, hbad, Bool.not_false]

/-! ## The halt and the configuration (R372) -/

/-- The configuration is the parameters of the block and of its channels. -/
theorem configValid_congr {s t : State} (hpar : t.chans.map Channel.par = s.chans.map Channel.par)
    (hp : t.params = s.params) : t.configValid = s.configValid := by
  have hlen : t.chans.length = s.chans.length := by simpa using congrArg List.length hpar
  have hall : ∀ u : State, (u.chans.all fun c => periodValid c.par.vPeriod0Ms && periodValid c.par.pidT0Ms) =
      (u.chans.map Channel.par).all fun p => periodValid p.vPeriod0Ms && periodValid p.pidT0Ms := fun u => by
    rw [List.all_map]
    rfl
  rw [State.configValid, State.configValid, hall, hall, hlen, hpar, hp]

/-- No instruction writes the parameters of a channel (R9). -/
theorem exec_chanParams {i : Instr} {s t : State} (h : exec i s = .next t) :
    t.chans.map Channel.par = s.chans.map Channel.par := by
  by_cases hr : i = .evReset
  · subst hr
    cases h
    simp [resetBlock, Channel.resetRegs]
  · obtain ⟨_, _, _, _, _, _, _, _, _, hlen⟩ := exec_fixed h hr
    refine List.ext_getElem (by simpa using hlen) fun k ht hs => ?_
    rw [List.length_map] at ht hs
    obtain ⟨c', hk', hpar, _⟩ :=
      onlyListedTransitionsWriteAChannel i s t k _ h hr (List.getElem?_eq_getElem hs)
    obtain rfl := Option.some.inj ((List.getElem?_eq_getElem ht).symm.trans hk')
    rw [List.getElem_map, List.getElem_map, hpar]

/-- No instruction makes the configuration valid or invalid. -/
theorem exec_configValid {i : Instr} {s t : State} (h : exec i s = .next t) : t.configValid = s.configValid :=
  configValid_congr (exec_chanParams h) (exec_params h)

/-- Only EV_RESET writes the halt, and it writes what the configuration is. -/
theorem exec_keeps_haltSound {i : Instr} {s t : State} (hs : HaltSound s) (h : exec i s = .next t) :
    HaltSound t := by
  rw [HaltSound, exec_configValid h]
  by_cases hr : i = .evReset
  · subst hr
    cases h
    exact resetBlock_cfgHalt s
  · obtain ⟨_, _, _, _, hhalt, _⟩ := exec_fixed h hr
    exact hhalt.trans hs

/-- On a halted block only EV_PHASE and EV_RESET write a channel (R336). -/
theorem exec_halted_chans {i : Instr} {s t : State} (hh : s.cfgHalt = true) (h : exec i s = .next t)
    (hr : i ≠ .evReset) :
    t.chans = s.chans ∨ ∃ m a b c, s.chans[m]? = some c ∧ t = s.setChan m (setPhase a b c) := by
  cases exec_effect h with
  | rejected | answered | evTime => exact .inl rfl
  | @evPhase m c a b hc => exact .inr ⟨m, a, b, c, hc, rfl⟩
  | evReset => exact absurd rfl hr
  | evAlarm hready => exact absurd (hh.symm.trans hready) nofun
  | edReset hc | calibrate hc | setVelPeriod hc | setTarget hc | setTunings hc | setMode _ hc | setInterval hc
  | setLimits hc | setOutput hc | compute hc | setDuty _ hc | enable hc | disable hc | drift hc | enqueue _ _ hc
  | stop hc | clearFlags _ hc | evEdge hc | evVtick hc | evPtick hc =>
    exact absurd (hh.symm.trans hc.1) nofun

/-- Every instruction keeps a halted block quiet: EV_PHASE writes levels only, and EV_RESET clears the outputs and the
queues (R336, R370). -/
theorem exec_keeps_haltQuiet {i : Instr} {s t : State} (hs : HaltQuiet s) (h : exec i s = .next t) :
    HaltQuiet t := by
  intro hh
  by_cases hr : i = .evReset
  · subst hr
    cases h
    exact eachChannel_reset fun _ _ => ⟨rfl, rfl, rfl, rfl, rfl⟩
  · obtain ⟨_, _, _, _, hhalt, _⟩ := exec_fixed h hr
    have hquiet := hs (hhalt.symm.trans hh)
    rcases exec_halted_chans (hhalt.symm.trans hh) h hr with hch | ⟨m, a, b, c, hc, rfl⟩
    · rwa [hch]
    · exact eachChannel_write hquiet hc id

/-- Settles O56: every instruction keeps the three, and none of them looks at the host's side of the block. -/
theorem stepKeepsTheHaltAndItsQuiet : Obligations.StepKeepsTheHaltAndItsQuiet := fun s _ hh hq h =>
  step_keeps (fun u => HaltSound u ∧ HaltQuiet u ∧ u.params = s.params)
    (fun _ _ _ ⟨hhalt, hquiet, hp⟩ he =>
      ⟨exec_keeps_haltSound hhalt he, exec_keeps_haltQuiet hquiet he, (exec_params he).trans hp⟩)
    (fun _ _ _ _ _ _ _ _ _ hu => hu) ⟨hh, hq, rfl⟩ h

end Sys2Proof.Machine
end

section
/-! PROOF. EV_RESET register by register (R370, R372), the power-on state as what EV_RESET leaves (R371), and the
invariants after a reset from any state (R371, R373). -/

namespace Sys2Proof.Machine

/-! ## What EV_RESET leaves (R370, R372) -/

theorem exec_evReset (s : State) : exec .evReset s = .next (resetBlock s) := by rfl

/-- The four conditions of R372. -/
theorem configValid_iff {s : State} :
    s.configValid = true ↔
      (1 ≤ s.chans.length ∧ s.chans.length ≤ 16) ∧ (1 ≤ s.params.qcap ∧ s.params.qcap ≤ 255) ∧
      (∀ c ∈ s.chans, 1 ≤ c.par.vPeriod0Ms ∧ c.par.vPeriod0Ms < 2 ^ 32 ∧
        1 ≤ c.par.pidT0Ms ∧ c.par.pidT0Ms < 2 ^ 32) ∧
      s.params.pinsValid = true := by
  simp only [State.configValid, Bool.and_eq_true, decide_eq_true_eq, List.all_eq_true, periodValid_iff, and_assoc]

/-- Settles O53: the halt is the negated check of R372, and every other register stands in `resetBlock`. -/
theorem resetSetsEveryRegister : Obligations.ResetSetsEveryRegister := by
  refine ⟨decodeWord_encodeWord (i := .evReset) rfl, fun s => ⟨!s.configValid, ?_, exec_evReset s⟩⟩
  rw [Bool.not_eq_false', configValid_iff]

/-! ## Power-on (R371) -/

/-- A reset keeps the parameters and the levels of a channel and nothing else. -/
theorem resetRegs_eq_powerOn (c : Channel) : c.resetRegs = Channel.powerOn c.par c.qa c.qb := by rfl

theorem resetRegs_powerOn (p : ChannelParams) (a b : Bool) :
    (Channel.powerOn p a b).resetRegs = Channel.powerOn p a b :=
  resetRegs_eq_powerOn _

/-- Two blocks with the same parameters, the same channels up to a reset, and the same log and interface are the same
block after a reset. -/
theorem resetBlock_congr {s t : State} (hch : t.chans.map Channel.resetRegs = s.chans.map Channel.resetRegs)
    (hp : t.params = s.params) (hlog : t.outlog = s.outlog) (hag : t.agenda = s.agenda)
    (hdata : t.hostData = s.hostData) (hcho : t.choices = s.choices) : resetBlock t = resetBlock s := by
  have hpar : t.chans.map Channel.par = s.chans.map Channel.par := by
    simpa [Channel.resetRegs, Function.comp_def] using congrArg (List.map Channel.par) hch
  simp only [resetBlock, hch, hp, hlog, hag, hdata, hcho, configValid_congr hpar hp]

/-- Settles O54: a reset reads of a channel its parameters and levels only, which a channel at power-on shares with the
channel it is built from; the default state is closed and computed. -/
theorem powerOnIsResetFromAnyState : Obligations.PowerOnIsResetFromAnyState := by
  refine ⟨fun s => ?_, by rfl⟩
  rw [exec_evReset, State.powerOn]
  refine congrArg _ (resetBlock_congr ?_ rfl rfl rfl rfl rfl)
  simp only [List.map_map, Function.comp_def, resetRegs_powerOn]
  exact List.map_congr_left fun c _ => resetRegs_eq_powerOn c

/-! ## The invariants after a reset (R371, R373) -/

/-- A reset leaves the configuration as it was, so its halt is right for what it leaves. -/
theorem haltSound_reset (s : State) : HaltSound (resetBlock s) := by
  rw [HaltSound, resetBlock_cfgHalt, exec_configValid (exec_evReset s)]

theorem haltQuiet_reset (s : State) : HaltQuiet (resetBlock s) :=
  fun _ => eachChannel_reset fun _ _ => ⟨rfl, rfl, rfl, rfl, rfl⟩

theorem timeSound_reset (s : State) : TimeSound (resetBlock s) :=
  (timeSound_iff _).mpr ⟨Nat.zero_le Config.timeMax, eachChannel_reset fun _ => channelTimes_reset⟩

theorem outputsSound_resetRegs (c : Channel) : OutputsSound c.resetRegs := outputsSound_of_released rfl rfl rfl

theorem queueSound_resetRegs (qcap : Nat) (c : Channel) : QueueSound qcap c.resetRegs :=
  ⟨Nat.zero_le qcap, nofun, nofun⟩

theorem decoderSound_resetRegs (c : Channel) : DecoderSound c.resetRegs := fun _ => rfl

/-- Settles O55: the power-on state is the result of a reset, and a reset from any state gives every invariant. -/
theorem powerOnIsSound : Obligations.PowerOnIsSound := fun _ _ =>
  ⟨rfl, haltSound_reset _, haltQuiet_reset _, alarmSound_reset _, timeSound_reset _,
    eachChannel_reset fun c _ => outputsSound_resetRegs c, eachChannel_reset fun c _ => pidSound_resetRegs c,
    eachChannel_reset fun c _ => queueSound_resetRegs _ c, eachChannel_reset fun c _ => decoderSound_resetRegs c⟩

end Sys2Proof.Machine
end
